-- ==== Sys2Proof/Word.lean ====
section
/-! DEFINITION. The three bit vectors of the engine. Every other value is an exact mathematical
integer (spec/00_scope.md section 5: no width, no wrap-around and no overflow except in CMD and STATUS). -/

namespace Sys2Proof

/-- The opcode byte of a command word, and the type of LASTOP (R25, R86). -/
abbrev CommandByte := BitVec 8

/-- The STATUS register as read on the port (R26). -/
abbrev StatusByte := BitVec 8

/-- A host-port address, 0 to 7 (R61, R80). -/
abbrev PortAddr := BitVec 3

end Sys2Proof
end

