-- ==== Sys2Proof/Syntax.lean ====
section
/-! DEFINITION. The instructions: the four commands of NTE-1 (R2, R87), one constructor per row of
spec/opcode_table.json. No command has an operand field or an immediate (R89), so no constructor has
an argument. -/

namespace Sys2Proof

inductive Instr where
  /-- GCD, command word 0x01: RES = gcd(OPA, OPB) (R100). -/
  | gcd
  /-- MODINV, command word 0x02: RES = inverse of OPA modulo OPN, or NOINV (R110). -/
  | modinv
  /-- POWMOD, command word 0x03: RES = OPA to the OPB modulo OPN (R130). -/
  | powmod
  /-- ISPRIME, command word 0x04: Miller-Rabin on OPN with OPB random witnesses (R150). -/
  | isprime
  deriving DecidableEq, Repr

end Sys2Proof
end

