-- ==== Sys2Proof/Decode.lean ====
section
/-! DEFINITION. Decoding a command word and encoding a command (R86 to R90). The command word is the
whole value written to port address 0, a natural number of any size; there is one format, CMD8, with
the opcode in bits [7:0], and every bit above bit 7 must be zero. -/

namespace Sys2Proof

/-- One row of the opcode map (R87): the word matches when its byte under `mask` is `pattern`. -/
structure OpcodeRow where
  mask    : CommandByte
  pattern : CommandByte
  instr   : Instr
  deriving DecidableEq, Repr

/-- The opcode map, complete, in the spec's order (R87, spec/opcode_table.json). -/
def opcodeTable : List OpcodeRow :=
  [ ⟨0xFF#8, 0x01#8, .gcd⟩,
    ⟨0xFF#8, 0x02#8, .modinv⟩,
    ⟨0xFF#8, 0x03#8, .powmod⟩,
    ⟨0xFF#8, 0x04#8, .isprime⟩ ]

/-- Why a command word is no command (R86, R88). -/
inductive DecodeReject where
  /-- A bit above bit 7 is set: the word is 256 or more. -/
  | highBitsSet
  /-- The byte is in no row of the opcode map: 0, or 5 to 255. -/
  | unknownOpcode
  deriving DecidableEq, Repr

/-- The row of the opcode map that a command byte matches, if any. -/
def decodeByte (b : CommandByte) : Option Instr :=
  (opcodeTable.find? fun row => b &&& row.mask == row.pattern).map (·.instr)

/-- Decode a command word: total on every natural number, rejecting by name (R86, R88). -/
def decodeWord (w : Nat) : Except DecodeReject Instr :=
  if w < 256 then
    match decodeByte (BitVec.ofNat 8 w) with
    | some i => .ok i
    | none => .error .unknownOpcode
  else .error .highBitsSet

/-- The opcode of a command (R87). -/
def opcode : Instr → CommandByte
  | .gcd => 0x01#8
  | .modinv => 0x02#8
  | .powmod => 0x03#8
  | .isprime => 0x04#8

/-- The command word of a command: the value the host writes to CMD (R86, R91 `cmd`). -/
def encodeWord (i : Instr) : Nat := (opcode i).toNat

/-- The host's question: the instruction the decoder reads from a table row's word. A command word is
one whole port value (R62: no byte order), so the word is handed to the decoder as it is; bits above
`nbits` are 0 in it. -/
def decodeTableWord (_nbits w : Nat) : Option Instr :=
  match decodeWord w with
  | .ok i => some i
  | .error _ => none

end Sys2Proof
end

