-- ==== Sys2Proof/Config.lean ====
section
/-! DEFINITION. What is fixed for one machine: the open parameter MAXBITS and the free answers of the
substrate's random generator. -/

namespace Sys2Proof

/-- `MAXBITS` (spec/00_scope.md section 4, D3, U8): the longest value a port write may carry, in bits.
The normative value is `none`, unbounded. `Machine.portWrite` takes the parameter as an argument, so
that statements cover every value of it. (Log 3.) -/
def Config.maxBits : Option Nat := none

/-- FREE VALUE. What the substrate's generator answers to the request with this number when no answer
is listed in `State.answers` (R12: "any value of [0, b) may come back, no rule depends on which").
`Machine.randBelow` brings it into [0, b). It has no body, so no proof can see a value of it. (Log 2.) -/
opaque Config.freeDraw : Nat → Nat

end Sys2Proof
end

