-- ==== Sys2Proof/Machine/State.lean ====
section
/-! DEFINITION. The state of the engine (spec/10_state.md), the pending events and the observations of
its environment, the reasons a step can stop, and the state after reset. Plain data throughout. -/

namespace Sys2Proof.Machine

/-- STATE, the engine's run state (R27). -/
inductive RunState where
  | idle
  | busy
  | done
  | fault
  deriving DecidableEq, Repr

/-- CAUSE, why STATE is FAULT (R31). The fourth code, 3, is never produced (R26, V8). -/
inductive Cause where
  | none
  /-- ILLEGAL_CMD, code 1 (R301). -/
  | illegalCmd
  /-- MOD_ZERO, code 2 (R302). -/
  | modZero
  deriving DecidableEq, Repr

/-- PHASE, the engine's position inside the running command (R30). It has no numeric encoding. -/
inductive Phase where
  | gLoop
  | iLoop
  | iFin
  | pLoop
  | sPre
  | sSplit
  | sRound
  | sPow
  | sCheck
  | sSq
  | sEnd
  deriving DecidableEq, Repr

/-- The working registers (R35 to R38). They are never visible on the port and none is read before the
running command has written it (R39). -/
structure Work where
  /-- GCD: the running pair (R35). -/
  ga : Nat
  gb : Nat
  /-- MODINV: remainders r, r′ (R36). -/
  r  : Nat
  r' : Nat
  /-- MODINV: Bézout coefficients of OPN, signed (R36). -/
  s  : Int
  s' : Int
  /-- MODINV: Bézout coefficients of OPA, signed (R36). -/
  t  : Int
  t' : Int
  /-- MODINV: quotient of the current step (R36). -/
  q  : Nat
  /-- POWMOD and ISPRIME: accumulator, base, exponent (R37). -/
  v  : Nat
  p  : Nat
  i  : Nat
  /-- ISPRIME: OPN − 1 = 2^k · m (R38). -/
  k  : Nat
  m  : Nat
  /-- ISPRIME: witness and running power (R38). -/
  a  : Nat
  y  : Nat
  /-- ISPRIME: squaring counter and completed rounds (R38). -/
  j  : Nat
  c  : Nat
  deriving DecidableEq, Repr

/-- The registers of the host port (R61). -/
inductive PortRegister where
  | cmd
  | status
  | opa
  | opb
  | opn
  | res
  | reserved
  deriving DecidableEq, Repr

/-- One atomic event of the total order of R67: a host action, or a turn of the engine. -/
inductive Event where
  /-- `PortWrite(addr, value)` (R80). -/
  | write (addr : PortAddr) (value : Nat)
  /-- `PortRead(addr)` (R81). -/
  | read (addr : PortAddr)
  /-- The host's `Reset` action (R82, R340). -/
  | reset
  /-- The host script line `wait` (R91): read STATUS until STATE is not BUSY. -/
  | wait
  /-- A draw of the host's own from the shared generator, `RandBelow(bound)` (R44, R204, R354). -/
  | hostDraw (bound : Nat)
  /-- A turn of the engine: one micro-step when STATE = BUSY, nothing otherwise (R13). -/
  | engine
  deriving DecidableEq, Repr

/-- What the host has been told. -/
inductive Observation where
  /-- The value a `PortRead` returned (R81). -/
  | read (addr : PortAddr) (value : Nat)
  /-- The answer to a draw of the host's own. -/
  | draw (bound : Nat) (answer : Nat)
  deriving DecidableEq, Repr

/-- The whole machine. The first eleven fields are the state spec/10_state.md section 1 gives the
engine; the last four are the model's own record of the engine's environment. -/
structure State where
  /-- OPA, port address 2 (R20). -/
  opa      : Nat
  /-- OPB, port address 3 (R20). -/
  opb      : Nat
  /-- OPN, port address 4 (R20). -/
  opn      : Nat
  /-- RES, port address 5 (R24). -/
  res      : Nat
  /-- LASTOP, the read side of CMD, port address 0 (R25). -/
  lastop   : CommandByte
  /-- STATE, STATUS bits [1:0] (R27). -/
  state    : RunState
  /-- NOINV, STATUS bit 2 (R28). -/
  noinv    : Bool
  /-- HERR, STATUS bit 3 (R29). -/
  herr     : Bool
  /-- CAUSE, STATUS bits [5:4] (R31). -/
  cause    : Cause
  /-- PHASE (R30). -/
  phase    : Phase
  /-- The working registers (R35 to R38). -/
  work     : Work
  /-- The MODEL's own: the events still to come, next first (R67; log 4). -/
  schedule : List Event
  /-- The MODEL's own: what the host has been told, newest first (R81; log 5). -/
  seen     : List Observation
  /-- The MODEL's own: answers the substrate has ready for `RandBelow`, next first (R12, U2; log 2). -/
  answers  : List Nat
  /-- The MODEL's own: the bounds of the `RandBelow` requests made so far, newest first (R163; log 2). -/
  requests : List Nat
  deriving DecidableEq, Repr

/-- The reasons the model stops where the spec gives no meaning. The engine's own faults, ILLEGAL_CMD
and MOD_ZERO, are NOT here: they are next states (R304). -/
inductive Fault where
  /-- The substrate is asked for a remainder by zero. Raised by the micro-steps of MODINV (I_FIN), POWMOD
  and ISPRIME in states that no command reaches (R182: "No division by zero is ever evaluated").
  Safe: the model stops. (Log 6.) -/
  | divByZero
  /-- The substrate is asked for `RandBelow(0)`, which has no meaning (R12: b ≥ 1). Raised by S_ROUND in
  states that no command reaches (R155: the bound is at least 1), and by a host draw whose bound is 0.
  Safe: the model stops. (Log 6.) -/
  | emptyDraw
  deriving DecidableEq, Repr

/-- The reasons the model gives a step no meaning. -/
inductive Refusal where
  /-- Raised by `exec` only, for an instruction that has no meaning yet. Safe. -/
  | notModelled (mnemonic : String)
  /-- Raised by `portWrite` when MAXBITS is `some B` and the written value has more than B bits
  (spec/00_scope.md section 4: "must refuse (give no meaning to) any run in which a port write carries a
  value of more than B bits"). Never raised at the normative MAXBITS = none. Safe. (Log 3.) -/
  | valueExceedsMaxBits
  deriving DecidableEq, Repr

/-- What a step, a meaning or a transaction answers. -/
abbrev StepResult := Host.Outcome State Fault Refusal

/-- The working registers after reset. R45 leaves them unspecified; zero is a DESIGN CHOICE (log 1). -/
def Work.reset : Work :=
  { ga := 0, gb := 0, r := 0, r' := 0, s := 0, s' := 0, t := 0, t' := 0, q := 0,
    v := 0, p := 0, i := 0, k := 0, m := 0, a := 0, y := 0, j := 0, c := 0 }

/-- The machine right after reset (R45, R340). PHASE is unspecified there; G_LOOP is a DESIGN CHOICE
(log 1). Nothing is pending and nothing has been observed. -/
def State.reset : State :=
  { opa := 0, opb := 0, opn := 0, res := 0, lastop := 0#8, state := .idle, noinv := false,
    herr := false, cause := .none, phase := .gLoop, work := Work.reset,
    schedule := [], seen := [], answers := [], requests := [] }

end Sys2Proof.Machine
end

