-- ==== Sys2Proof/Machine/Flags.lean ====
section
/-! DEFINITION. The two flags, NOINV and HERR (R42: the complete list), and the STATUS byte (R26). -/

namespace Sys2Proof.Machine

/-- The code of STATE in STATUS bits [1:0] (R26). -/
def RunState.code : RunState → Nat
  | .idle => 0
  | .busy => 1
  | .done => 2
  | .fault => 3

/-- The code of CAUSE in STATUS bits [5:4] (R26, R31). -/
def Cause.code : Cause → Nat
  | .none => 0
  | .illegalCmd => 1
  | .modZero => 2

/-- STATUS as read on the port: `STATE + 4·NOINV + 8·HERR + 16·CAUSE`; bits [7:6] read 0 (R26, R81). -/
def statusByte (s : State) : StatusByte :=
  BitVec.ofNat 8 (s.state.code + 4 * s.noinv.toNat + 8 * s.herr.toNat + 16 * s.cause.code)

/-- `RES <- 0; NOINV <- 0`, what processing any command word begins with (R85, R24, R28). -/
def clearOutcome (s : State) : State := { s with res := 0, noinv := false }

/-- `NOINV <- 1` (R28, R117). -/
def raiseNoinv (s : State) : State := { s with noinv := true }

/-- A dropped write sets `HERR <- 1` and changes nothing else (R84, R29). -/
def dropWrite (s : State) : State := { s with herr := true }

end Sys2Proof.Machine
end

