-- ==== Sys2Proof/Machine/Operands.lean ====
section
/-! DEFINITION. Where operands come from: the fixed roles of OPA, OPB and OPN per command (R20, R89),
and the port's register map (R61). -/

namespace Sys2Proof.Machine

/-- The operands a, b of GCD (R100). OPN is ignored. -/
def gcdOperands (s : State) : Nat × Nat := (s.opa, s.opb)

/-- The operands a, n of MODINV (R110). OPB is ignored. -/
def modinvOperands (s : State) : Nat × Nat := (s.opa, s.opn)

/-- The operands a, d, n of POWMOD (R130). -/
def powmodOperands (s : State) : Nat × Nat × Nat := (s.opa, s.opb, s.opn)

/-- The operands n, iters of ISPRIME (R150). OPA is ignored. -/
def isprimeOperands (s : State) : Nat × Nat := (s.opn, s.opb)

/-- The register a port address names (R61). -/
def portRegister (addr : PortAddr) : PortRegister :=
  match addr.toNat with
  | 0 => .cmd
  | 1 => .status
  | 2 => .opa
  | 3 => .opb
  | 4 => .opn
  | 5 => .res
  | _ => .reserved

/-- What a host read of a register returns (R61, R81). -/
def registerValue (s : State) : PortRegister → Nat
  | .cmd => s.lastop.toNat
  | .status => (statusByte s).toNat
  | .opa => s.opa
  | .opb => s.opb
  | .opn => s.opn
  | .res => s.res
  | .reserved => 0

/-- `PortRead(addr)`'s value, written `x[addr]` in the spec (R81). -/
def portValue (addr : PortAddr) (s : State) : Nat := registerValue s (portRegister addr)

end Sys2Proof.Machine
end

