-- ==== Sys2Proof/Machine/Ops.lean ====
section
/-! DEFINITION. The shared operations: the substrate's functions (R11, R12), `complete` (R33), taking a
fault (R304) and leaving it (R340), and command issue (R85). -/

namespace Sys2Proof.Machine

/-! ### The substrate's arithmetic (spec/00_scope.md sections 5 and 6) -/

/-- `bitlen(x)` (spec/00_scope.md section 5). -/
def bitlen (x : Nat) : Nat := if x = 0 then 0 else Nat.log2 x + 1

/-- `emod(x, n)` for n > 0: the value of [0, n) congruent to x (spec/00_scope.md section 5). -/
def emod (x : Int) (n : Nat) : Nat := (x % (n : Int)).toNat

/-- A micro-step that takes remainders modulo `n`: the substrate gives a remainder by zero no meaning, so
with n = 0 the model stops (R181, R182; log 6). -/
def withModulus (n : Nat) (result : StepResult) : StepResult :=
  if n = 0 then .fault .divByZero else result

/-- One iteration of square-and-multiply on (v, p, i) modulo n, n > 0: POWMOD's loop and ISPRIME's witness
exponentiation (R133, R157). The multiply uses p as it was before. -/
def squareMultiply (n : Nat) (w : Work) : Work :=
  { w with v := if w.i % 2 = 1 then (w.v * w.p) % n else w.v
           p := (w.p * w.p) % n
           i := w.i / 2 }

/-! ### The substrate's random generator -/

/-- The answer to the next `RandBelow(bound)`, bound > 0: the next listed answer, or the free value of
this request's number, brought into [0, bound) (R12; log 2). -/
def nextAnswer (bound : Nat) (s : State) : Nat :=
  (match s.answers with
   | u :: _ => u
   | [] => Config.freeDraw s.requests.length) % bound

/-- The generator advances: the answer is used up and the request is on record (R44). -/
def afterDraw (bound : Nat) (s : State) : State :=
  { s with answers := s.answers.tail, requests := bound :: s.requests }

/-- `RandBelow(bound)`: request and answer are one atomic action (R12, R13). A bound of 0 has no
meaning (log 6). -/
def randBelow (bound : Nat) (s : State) (use : Nat → State → StepResult) : StepResult :=
  if bound = 0 then .fault .emptyDraw else use (nextAnswer bound s) (afterDraw bound s)

/-! ### Completing, faulting, resetting -/

/-- `complete(v)`: `RES <- v; STATE <- DONE` (R33). -/
def complete (v : Nat) (s : State) : State := { s with res := v, state := .done }

/-- `raise Fault(c)`: `CAUSE <- c; STATE <- FAULT`, the engine's one way to take an exception (R304).
Nothing is saved, no control goes anywhere, no mode changes. -/
def raiseFault (c : Cause) (s : State) : State := { s with cause := c, state := .fault }

/-- `Reset`, the only way out of FAULT (R305, R340): every element of the engine's state takes its reset
value (R45). The host's pending actions, what it has seen, and the generator are not the engine's and are
not touched (R44, R341). -/
def resetEngine (s : State) : State :=
  { State.reset with
    schedule := s.schedule, seen := s.seen, answers := s.answers, requests := s.requests }

/-! ### Command issue -/

/-- STATE ∈ {IDLE, DONE}: the states in which a write to CMD, OPA, OPB or OPN is accepted (R83, R85). -/
def accepting (s : State) : Bool :=
  match s.state with
  | .idle => true
  | .done => true
  | .busy => false
  | .fault => false

/-- A command word is processed (R85, R306): STATE is examined first, and while BUSY or FAULT the write is
dropped with HERR and nothing else (R84); otherwise RES and NOINV are zeroed before anything else. -/
def issue (s : State) (process : State → StepResult) : StepResult :=
  if accepting s then process (clearOutcome s) else .next (dropWrite s)

/-- The operand check of MODINV and POWMOD: OPN = 0 raises MOD_ZERO (R85, R302). -/
def requireModulus (s : State) (start : State → StepResult) : StepResult :=
  if s.opn = 0 then .next (raiseFault .modZero s) else start s

/-- `LASTOP <- w; STATE <- BUSY` (R85). -/
def startCommand (i : Instr) (s : State) : State := { s with lastop := opcode i, state := .busy }

/-- An illegal word raises ILLEGAL_CMD (R85, R88, R301). -/
def issueIllegal (s : State) : StepResult :=
  issue s fun s => .next (raiseFault .illegalCmd s)

end Sys2Proof.Machine
end

