-- ==== Sys2Proof/Machine/Gcd.lean ====
section
/-! DEFINITION. The GCD command (spec/40_gcd.md). -/

namespace Sys2Proof.Machine

/-- Accept GCD: `(ga, gb) <- (OPA, OPB); PHASE <- G_LOOP` (R101). -/
def acceptGcd (s : State) : State :=
  { s with
    work := { s.work with ga := (gcdOperands s).1, gb := (gcdOperands s).2 }
    phase := .gLoop }

/-- GCD's meaning: the issue of command word 0x01 (R85, R100). Every pair of operands is legal. -/
def execGcd (s : State) : StepResult :=
  issue s fun s => .next (acceptGcd (startCommand .gcd s))

/-- Micro-step at G_LOOP (R102). -/
def stepGLoop (s : State) : StepResult :=
  if s.work.gb = 0 then .next (complete s.work.ga s)
  else .next { s with
    work := { s.work with ga := s.work.gb, gb := s.work.ga % s.work.gb }
    phase := .gLoop }

end Sys2Proof.Machine
end

