-- ==== Sys2Proof/Machine/Isprime.lean ====
section
/-! DEFINITION. The ISPRIME command (spec/43_isprime.md). The test "y = OPN − 1" is written
`y + 1 = OPN`, the same equation on exact integers, with no difference formed (R183). -/

namespace Sys2Proof.Machine

/-- Accept ISPRIME: `PHASE <- S_PRE`; no working register is loaded (R152). -/
def acceptIsprime (s : State) : State := { s with phase := .sPre }

/-- ISPRIME's meaning: the issue of command word 0x04 (R85, R150). It has no operand check. -/
def execIsprime (s : State) : StepResult :=
  issue s fun s => .next (acceptIsprime (startCommand .isprime s))

/-- Micro-step at S_PRE: the small cases, and the start of the split (R153). -/
def stepSPre (s : State) : StepResult :=
  if s.opn = 0 ∨ s.opn = 1 then .next (complete 0 s)
  else if s.opn = 2 ∨ s.opn = 3 then .next (complete 1 s)
  else .next { s with work := { s.work with m := s.opn - 1, k := 0 }, phase := .sSplit }

/-- Micro-step at S_SPLIT: halve m while it is even (R154). -/
def stepSSplit (s : State) : StepResult :=
  if s.work.m % 2 = 0 then
    .next { s with work := { s.work with m := s.work.m / 2, k := s.work.k + 1 }, phase := .sSplit }
  else .next { s with work := { s.work with c := 0 }, phase := .sRound }

/-- Micro-step at S_ROUND: the end of the test, or a round with the witness `RandBelow(OPN − 3) + 2`
(R155, R156). -/
def stepSRound (s : State) : StepResult :=
  if s.work.c = (isprimeOperands s).2 then .next (complete 1 s)
  else randBelow (s.opn - 3) s fun u s =>
    .next { s with
      work := { s.work with a := u + 2, v := 1, p := u + 2, i := s.work.m }
      phase := .sPow }

/-- Micro-step at S_POW: y = a^m mod n, by POWMOD's loop (R157). -/
def stepSPow (s : State) : StepResult :=
  if s.work.i = 0 then .next { s with work := { s.work with y := s.work.v }, phase := .sCheck }
  else withModulus s.opn (.next { s with work := squareMultiply s.opn s.work, phase := .sPow })

/-- Micro-step at S_CHECK (R158). -/
def stepSCheck (s : State) : StepResult :=
  if s.work.y = 1 ∨ s.work.y + 1 = s.opn then
    .next { s with work := { s.work with c := s.work.c + 1 }, phase := .sRound }
  else .next { s with work := { s.work with j := 1 }, phase := .sSq }

/-- Micro-step at S_SQ: the iterated squaring and comparison (R159). -/
def stepSSq (s : State) : StepResult :=
  if s.work.j < s.work.k ∧ s.work.y + 1 ≠ s.opn then
    withModulus s.opn
      (let y := s.work.y * s.work.y % s.opn
       if y = 1 then .next (complete 0 { s with work := { s.work with y := y } })
       else .next { s with work := { s.work with y := y, j := s.work.j + 1 }, phase := .sSq })
  else .next { s with phase := .sEnd }

/-- Micro-step at S_END (R160). -/
def stepSEnd (s : State) : StepResult :=
  if s.work.y + 1 ≠ s.opn then .next (complete 0 s)
  else .next { s with work := { s.work with c := s.work.c + 1 }, phase := .sRound }

end Sys2Proof.Machine
end

