-- ==== Sys2Proof/Machine/Modinv.lean ====
section
/-! DEFINITION. The MODINV command (spec/41_modinv.md). -/

namespace Sys2Proof.Machine

/-- Accept MODINV: `(r, r′) <- (OPN, OPA); (s, s′) <- (1, 0); (t, t′) <- (0, 1); PHASE <- I_LOOP`
(R113). -/
def acceptModinv (s : State) : State :=
  { s with
    work := { s.work with
      r := (modinvOperands s).2, r' := (modinvOperands s).1, s := 1, s' := 0, t := 0, t' := 1 }
    phase := .iLoop }

/-- MODINV's meaning: the issue of command word 0x02 (R85, R110). OPN = 0 faults with MOD_ZERO. -/
def execModinv (s : State) : StepResult :=
  issue s fun s => requireModulus s fun s => .next (acceptModinv (startCommand .modinv s))

/-- The three pair updates of one reducing micro-step, r′ > 0, all with the quotient computed in it and
the values before it (R114). `r − q·r′` is the remainder `r mod r′`. -/
def reduceModinv (w : Work) : Work :=
  { w with
    q := w.r / w.r'
    r := w.r', r' := w.r - w.r / w.r' * w.r'
    s := w.s', s' := w.s - (w.r / w.r' : Nat) * w.s'
    t := w.t', t' := w.t - (w.r / w.r' : Nat) * w.t' }

/-- Micro-step at I_LOOP (R114). -/
def stepILoop (s : State) : StepResult :=
  if s.work.r' = 0 then .next { s with phase := .iFin }
  else .next { s with work := reduceModinv s.work, phase := .iLoop }

/-- Micro-step at I_FIN: no inverse when r > 1 (R117), else the inverse is t brought into [0, OPN)
(R116). -/
def stepIFin (s : State) : StepResult :=
  if 1 < s.work.r then .next (complete 0 (raiseNoinv s))
  else withModulus s.opn (.next (complete (emod s.work.t s.opn) s))

end Sys2Proof.Machine
end

