-- ==== Sys2Proof/Machine/Powmod.lean ====
section
/-! DEFINITION. The POWMOD command (spec/42_powmod.md). -/

namespace Sys2Proof.Machine

/-- Accept POWMOD: `(v, p, i) <- (1, OPA, OPB); PHASE <- P_LOOP`; neither base nor accumulator is reduced
(R132). -/
def acceptPowmod (s : State) : State :=
  { s with
    work := { s.work with v := 1, p := (powmodOperands s).1, i := (powmodOperands s).2.1 }
    phase := .pLoop }

/-- POWMOD's meaning: the issue of command word 0x03 (R85, R130). OPN = 0 faults with MOD_ZERO. -/
def execPowmod (s : State) : StepResult :=
  issue s fun s => requireModulus s fun s => .next (acceptPowmod (startCommand .powmod s))

/-- Micro-step at P_LOOP (R133). -/
def stepPLoop (s : State) : StepResult :=
  if s.work.i = 0 then .next (complete s.work.v s)
  else withModulus s.opn (.next { s with work := squareMultiply s.opn s.work, phase := .pLoop })

end Sys2Proof.Machine
end

