-- ==== Sys2Proof/Machine/Micro.lean ====
section
/-! DEFINITION. The engine's turn: the micro-step that PHASE selects while STATE = BUSY (R30), and
nothing otherwise (R13, R315). -/

namespace Sys2Proof.Machine

/-- One micro-step: the rule of the current phase (R30). -/
def microStep (s : State) : StepResult :=
  match s.phase with
  | .gLoop => stepGLoop s
  | .iLoop => stepILoop s
  | .iFin => stepIFin s
  | .pLoop => stepPLoop s
  | .sPre => stepSPre s
  | .sSplit => stepSSplit s
  | .sRound => stepSRound s
  | .sPow => stepSPow s
  | .sCheck => stepSCheck s
  | .sSq => stepSSq s
  | .sEnd => stepSEnd s

/-- The engine takes a micro-step while STATE = BUSY and no step otherwise (R13, R33, R305, R315); a turn
given to it in another state changes nothing (log 4). -/
def engineTurn (s : State) : StepResult :=
  match s.state with
  | .busy => microStep s
  | .idle => .next s
  | .done => .next s
  | .fault => .next s

end Sys2Proof.Machine
end

