-- ==== Sys2Proof/Machine/Port.lean ====
section
/-! DEFINITION. The host port: transactions (spec/30_encoding.md section 1), and the event whose turn it
is in the total order (R67). -/

namespace Sys2Proof.Machine

/-- Does a written value have more than MAXBITS bits (spec/00_scope.md section 4)? -/
def exceedsMaxBits (maxBits : Option Nat) (value : Nat) : Bool :=
  match maxBits with
  | none => false
  | some b => b < bitlen value

/-- The host is told something. -/
def observe (o : Observation) (s : State) : State := { s with seen := o :: s.seen }

/-- A write to CMD: the word's instruction is executed, or the word is illegal (R85, R88). STATE is
examined first in either case (`issue`), so a word written while BUSY or FAULT has no effect but HERR,
whatever it decodes to (R84, R306). -/
def commandWrite (w : Nat) (s : State) : StepResult :=
  match decodeWord w with
  | .ok i => exec i s
  | .error _ => issueIllegal s

/-- A write to an operand register: accepted in IDLE and DONE, where it changes that register and nothing
else (R83), and dropped otherwise (R84). -/
def operandWrite (s : State) (written : State) : StepResult :=
  if accepting s then .next written else .next (dropWrite s)

/-- A write to a register of the port (R61). STATUS, RES and the reserved addresses drop every write
(R84). -/
def registerWrite (reg : PortRegister) (value : Nat) (s : State) : StepResult :=
  match reg with
  | .cmd => commandWrite value s
  | .opa => operandWrite s { s with opa := value }
  | .opb => operandWrite s { s with opb := value }
  | .opn => operandWrite s { s with opn := value }
  | .status => .next (dropWrite s)
  | .res => .next (dropWrite s)
  | .reserved => .next (dropWrite s)

/-- `PortWrite(addr, value)` (R80) on an engine whose MAXBITS is `maxBits`; a longer value is given no
meaning (spec/00_scope.md section 4; log 3). -/
def portWrite (maxBits : Option Nat) (addr : PortAddr) (value : Nat) (s : State) : StepResult :=
  if exceedsMaxBits maxBits value then .refused .valueExceedsMaxBits
  else registerWrite (portRegister addr) value s

/-- `PortRead(addr)` (R81): accepted in every state; the host is told the value and the engine does not
change. -/
def portRead (addr : PortAddr) (s : State) : StepResult :=
  .next (observe (.read addr (portValue addr s)) s)

/-- A draw of the host's own from the generator it shares with the engine (R44, R354). -/
def hostDraw (bound : Nat) (s : State) : StepResult :=
  randBelow bound s fun u s => .next (observe (.draw bound u) s)

/-- The script line `wait` (R91): one read of STATUS; while it shows BUSY the engine has a turn and the
host waits on. R91 does not fix the number of reads (log 7). -/
def hostWait (s : State) : StepResult :=
  let polled := observe (.read 1#3 (portValue 1#3 s)) s
  match s.state with
  | .busy => .next { polled with schedule := .engine :: .wait :: s.schedule }
  | .idle => .next polled
  | .done => .next polled
  | .fault => .next polled

/-- One event takes effect, atomically (R65). -/
def act (e : Event) (s : State) : StepResult :=
  match e with
  | .write addr value => portWrite Config.maxBits addr value s
  | .read addr => portRead addr s
  | .reset => .next (resetEngine s)
  | .wait => hostWait s
  | .hostDraw bound => hostDraw bound s
  | .engine => engineTurn s

/-- The next event of the total order takes effect; with none pending it is the engine's turn (R67, R356;
log 4). -/
def nextEvent (s : State) : StepResult :=
  match s.schedule with
  | [] => engineTurn s
  | e :: rest => act e { s with schedule := rest }

/-- An engine that accepts a command word: itself when it already does, else out of BUSY or FAULT. Used to
place a word for the host's question only (log 8). -/
def madeAccepting (s : State) : State :=
  if accepting s then s else { s with state := .idle, cause := .none }

end Sys2Proof.Machine
end

