-- ==== Sys2Proof/Machine/Step.lean ====
section
/-! DEFINITION. One step of the machine. -/

namespace Sys2Proof.Machine

/-- One step: the next event of the total order of host actions and engine micro-steps (R67). -/
def step (s : State) : Host.Outcome State Fault Refusal := nextEvent s

/-- The state in which the very next step processes command word `w`: its write to CMD is the next pending
event, and the engine accepts commands. The engine fetches nothing (R41): a command comes from the host's
port, and this stands for the host's write. (Log 8.) -/
def State.withFetchWord (s : State) (_nbits w : Nat) : State :=
  { madeAccepting s with schedule := .write 0#3 w :: s.schedule }

end Sys2Proof.Machine
end

