-- ==== Sys2Proof/Machine/HostScript.lean ====
section
/-! DEFINITION. The host's side of the port: script lines (R91), the four pseudo-instructions (R92), and
running a script to its end. The host is outside the engine (R6, R200); these functions only place events
in `schedule` and take steps. -/

namespace Sys2Proof.Machine

/-! ### Script lines (R91) -/

/-- REG of a script line: a register's name or a number 0 to 7. -/
inductive ScriptRegister where
  | cmd
  | status
  | opa
  | opb
  | opn
  | res
  | number (addr : PortAddr)
  deriving DecidableEq, Repr

/-- `addr(REG)` (R91). -/
def scriptAddress : ScriptRegister → PortAddr
  | .cmd => 0#3
  | .status => 1#3
  | .opa => 2#3
  | .opb => 3#3
  | .opn => 4#3
  | .res => 5#3
  | .number addr => addr

/-- A line of a host script (R91). A host variable stands for its value: a script is written with the
values its host holds by then. -/
inductive ScriptLine where
  | wr (reg : ScriptRegister) (value : Nat)
  | rd (reg : ScriptRegister)
  | cmd (i : Instr)
  | wait
  | reset
  deriving DecidableEq, Repr

/-- What a script line does at the port (R91). -/
def scriptEvent : ScriptLine → Event
  | .wr reg value => .write (scriptAddress reg) value
  | .rd reg => .read (scriptAddress reg)
  | .cmd i => .write 0#3 (encodeWord i)
  | .wait => .wait
  | .reset => .reset

/-- The record of a port transaction, `{we, addr[2:0], wdata}` (R80, R81). -/
structure Transaction where
  we    : Bool
  addr  : PortAddr
  wdata : Nat
  deriving DecidableEq, Repr

/-- The "encoding" of a script line: its transaction record (R91). `wait` is a run of reads of STATUS and
`reset` is no transaction (R82); a read carries no data, written 0 here. -/
def scriptRecord : ScriptLine → Option Transaction
  | .wr reg value => some ⟨true, scriptAddress reg, value⟩
  | .rd reg => some ⟨false, scriptAddress reg, 0⟩
  | .cmd i => some ⟨true, 0#3, encodeWord i⟩
  | .wait => none
  | .reset => none

/-! ### Pseudo-instructions (R92) -/

/-- `g = gcd a, b`. -/
def gcdScript (a b : Nat) : List ScriptLine :=
  [.wr .opa a, .wr .opb b, .cmd .gcd, .wait, .rd .res]

/-- `o = modinv a, n`; the host tests NOINV in the STATUS it reads before it trusts o. -/
def modinvScript (a n : Nat) : List ScriptLine :=
  [.wr .opa a, .wr .opn n, .cmd .modinv, .wait, .rd .status, .rd .res]

/-- `o = powmod a, d, n`. -/
def powmodScript (a d n : Nat) : List ScriptLine :=
  [.wr .opa a, .wr .opb d, .wr .opn n, .cmd .powmod, .wait, .rd .res]

/-- `b = isprime n, iters`. -/
def isprimeScript (n iters : Nat) : List ScriptLine :=
  [.wr .opn n, .wr .opb iters, .cmd .isprime, .wait, .rd .res]

/-! ### Running a script -/

/-- Why a host routine gives no result. -/
inductive HostFailure where
  /-- The number of turns or tries allowed to the routine ran out (log 9); hardware would go on. -/
  | outOfTurns
  /-- A step of the machine stopped (`Machine.Fault` or `Machine.Refusal`). -/
  | machineStopped
  /-- After `wait`, STATE is FAULT (R92, R351). -/
  | engineFault
  /-- No modular inverse exists (R217, R245(b)). -/
  | noInverse
  /-- Malformed key material (R245(a)). -/
  | invalidKeyFile
  /-- A stream failed to read or to write (R245(d)), whatever the cryptography does (log 17). -/
  | ioFailure
  /-- A malformed ciphertext line (R245(e)). -/
  | malformedLine
  /-- A parameter the source does not address (log 10). -/
  | unsuitableParameter
  deriving DecidableEq, Repr

/-- Take at most `turns` steps, until nothing is pending. -/
def drain : Nat → State → Except HostFailure State
  | 0, s => if s.schedule.isEmpty then .ok s else .error .outOfTurns
  | turns + 1, s =>
    if s.schedule.isEmpty then .ok s
    else
      match step s with
      | .next s' => drain turns s'
      | .fault _ => .error .machineStopped
      | .refused _ => .error .machineStopped

/-- The host carries out events one after another (R14, R91). -/
def perform (turns : Nat) (events : List Event) (s : State) : Except HostFailure State :=
  drain turns { s with schedule := events }

/-- The STATUS and RES a pseudo-instruction's script ends by reading: the last two observations (R92). -/
def lastStatusAndResult (s : State) : Except HostFailure (Nat × Nat) :=
  match s.seen with
  | .read _ result :: .read _ status :: _ => .ok (status, result)
  | _ => .error .engineFault

/-- Carry out a pseudo-instruction: run its script, check after `wait` that STATE is DONE (R92, R351), and
give NOINV and RES as read. -/
def callEngine (turns : Nat) (script : List ScriptLine) (s : State) :
    Except HostFailure ((Bool × Nat) × State) :=
  match perform turns (script.map scriptEvent) s with
  | .error e => .error e
  | .ok s' =>
    match lastStatusAndResult s' with
    | .error e => .error e
    | .ok (status, result) =>
      if status % 4 = RunState.code .done then .ok ((status / 4 % 2 = 1, result), s')
      else .error .engineFault

/-- `RandBelow(bound)` by the host, from the shared generator (R44, R354). -/
def hostRandBelow (bound : Nat) (s : State) : Except HostFailure (Nat × State) :=
  match perform 1 [.hostDraw bound] s with
  | .error e => .error e
  | .ok s' =>
    match s'.seen with
    | .draw _ u :: _ => .ok (u, s')
    | _ => .error .machineStopped

end Sys2Proof.Machine
end

