-- ==== Sys2Proof/Machine/HostSoftware.lean ====
section
/-! DEFINITION. The software around the engine (spec/45_host_software.md), which R6 puts outside the
hardware: prime construction, key generation, the block pipeline and the texts they exchange, written as
functions that drive the machine by `step`. `turns` bounds the steps of one use of the engine and `tries`
the retries of a loop; hardware and host have neither bound (R207, U10; log 9). -/

namespace Sys2Proof.Machine

/-- A byte of a plaintext. -/
abbrev Byte := BitVec 8

/-- `flog2(x)`, ⌊log2 x⌋ for x > 0; the spec gives no value for 0, and the model's is 0 (DESIGN CHOICE,
log 21). -/
def flog2 (x : Nat) : Nat := Nat.log2 x

/-! ### Prime construction (R204 to R207) -/

/-- The two readings of the candidate's sample (R205). `exact` is the one spec/90_conflicts.md C5 makes
binding: the candidate has exactly `bits` bits. `literal` keeps the source's words ("a random `bits`-bit
value"), for a host that must match the original's draws. -/
inductive CandidateReading where
  | exact
  | literal
  deriving DecidableEq, Repr

/-- A candidate: the sample plus 2^(bits−1) (R205), or plus 2 for bits = 1 (R206). The source does not
address bits = 0 (U12). -/
def drawCandidate (reading : CandidateReading) (bits : Nat) (s : State) :
    Except HostFailure (Nat × State) :=
  match bits with
  | 0 => .error .unsuitableParameter
  | below + 1 => do
    let range := match reading with
      | .exact => 2 ^ below
      | .literal => 2 ^ (below + 1)
    let (u, s) ← hostRandBelow range s
    pure ((if below = 0 then 2 else 2 ^ below) + u, s)

/-- `make_prime(bits, iters)`: candidates are drawn until ISPRIME accepts one (R204). -/
def makePrime (turns : Nat) (reading : CandidateReading) (bits iters : Nat) :
    Nat → State → Except HostFailure (Nat × State)
  | 0, _ => .error .outOfTurns
  | tries + 1, s => do
    let (x, s) ← drawCandidate reading bits s
    let ((_, verdict), s) ← callEngine turns (isprimeScript x iters) s
    if verdict = 1 then pure (x, s) else makePrime turns reading bits iters tries s

/-! ### Key generation (R210 to R217) -/

/-- How nbits/5 and 2·nbits/5 are rounded: not stated by the source (R210, U14), a parameter. -/
inductive Rounding where
  | down
  | up
  deriving DecidableEq, Repr

/-- x/5, rounded. -/
def fifth (rounding : Rounding) (x : Nat) : Nat :=
  match rounding with
  | .down => x / 5
  | .up => (x + 4) / 5

/-- Step 4 of `make_public_key`: accept p and q (R212). -/
def acceptPrimes (nbits p q : Nat) : Bool :=
  (max p q - 1) % min p q ≠ 0 && (min p q - 1) % max p q ≠ 0 && nbits ≤ flog2 (p * p * q)

/-- `make_public_key(nbits, iters)`: (p, q, n) with n = p²·q; a rejection redraws everything (R210 to
R213). With candidates of exactly the drawn bit counts n stays below 2^nbits, so that condition (b) of
R212, flog2(n) ≥ nbits, rejects every draw but p = q = 2 at nbits = 3; for larger nbits only the literal
reading can succeed (log 10). -/
def makePublicKey (turns primeTries : Nat) (reading : CandidateReading) (rounding : Rounding)
    (nbits iters : Nat) :
    Nat → State → Except HostFailure ((Nat × Nat × Nat) × State)
  | 0, _ => .error .outOfTurns
  | tries + 1, s =>
    let low := fifth rounding nbits
    let high := fifth rounding (2 * nbits)
    if high ≤ low then .error .unsuitableParameter
    else do
      let (u, s) ← hostRandBelow (high - low) s
      let pBits := low + u
      let (p, s) ← makePrime turns reading pBits iters primeTries s
      let (q, s) ← makePrime turns reading (nbits - 2 * pBits) iters primeTries s
      if acceptPrimes nbits p q then pure ((p, q, p * p * q), s)
      else makePublicKey turns primeTries reading rounding nbits iters tries s

/-- `make_private_key(p, q)`: (d, pq), by one GCD and one MODINV command (R215 to R217). NOINV = 1 is
reported and RES is not used (R217, R245(b)). -/
def makePrivateKey (turns p q : Nat) (s : State) : Except HostFailure ((Nat × Nat) × State) := do
  let ((_, g), s) ← callEngine turns (gcdScript (p - 1) (q - 1)) s
  let lambda := (p - 1) * (q - 1) / g
  let ((noInverse, d), s) ← callEngine turns (modinvScript (p * p * q) lambda) s
  if noInverse then .error .noInverse else pure ((d, p * q), s)

/-- A generated key pair: (n, owner) and (pq, d) (R201). -/
structure KeyPair where
  n     : Nat
  owner : List Char
  pq    : Nat
  d     : Nat
  deriving DecidableEq, Repr

/-- `generate_keypair` (R242): public key, then private key (R235). The seed is the generator's affair
(R237) and does not appear. The owner string is taken as it is (log 15). -/
def generateKeypair (turns primeTries tries : Nat) (reading : CandidateReading)
    (rounding : Rounding) (nbits iters : Nat) (owner : List Char) (s : State) :
    Except HostFailure (KeyPair × State) := do
  let ((p, q, n), s) ← makePublicKey turns primeTries reading rounding nbits iters tries s
  let ((d, pq), s) ← makePrivateKey turns p q s
  pure (⟨n, owner, pq, d⟩, s)

/-! ### Blocks (R202, R226 to R229) -/

/-- Big-endian byte import (R63, R226). -/
def importBytes (bytes : List Byte) : Nat := bytes.foldl (fun m b => m * 256 + b.toNat) 0

/-- Big-endian byte export of `m` in front of `rest`, taking at most `limit` bytes. -/
def exportBytesOnto : Nat → Nat → List Byte → List Byte
  | 0, _, rest => rest
  | limit + 1, m, rest =>
    if m = 0 then rest else exportBytesOnto limit (m / 256) (BitVec.ofNat 8 (m % 256) :: rest)

/-- Big-endian byte export with no leading zero bytes (R63, R228). -/
def exportBytes (m : Nat) : List Byte := exportBytesOnto (bitlen m) m []

/-- A plaintext block as an integer: the sentinel 0xFF, then exactly the bytes read (R202, R227, C7). -/
def blockToInteger (bytes : List Byte) : Nat := importBytes (0xFF#8 :: bytes)

/-- An integer back to its block: the leading byte, and only it, is dropped, whatever it is (R228, R229,
R230); 0 exports to no byte and gives none (log 18). -/
def integerToBlock (m : Nat) : List Byte := (exportBytes m).tail

/-- Block length in bytes for encryption, sentinel included (R202, C2). Where the formula has no value or a
negative one, for n below 16, it is 0 (DESIGN CHOICE, log 21). -/
def encryptBlockLength (n : Nat) : Nat := (flog2 n - 4) / 16

/-- Block length in bytes for decryption (R202). For pq = 0, where the formula has no value, and for pq = 1,
where it is −1, it is 0 (DESIGN CHOICE, log 21). -/
def decryptBlockLength (pq : Nat) : Nat := (flog2 pq - 1) / 8

/-- The payloads of a plaintext: `size` bytes each, ending with a short one that may be empty (R226,
R227). -/
def payloads (size : Nat) : Nat → List Byte → List (List Byte)
  | 0, _ => []
  | limit + 1, bytes =>
    if bytes.length < size then [bytes]
    else bytes.take size :: payloads size limit (bytes.drop size)

/-! ### Streams (R242, R245(d)) -/

/-- What a collaborator hands the core to read: the items it yields one after another, and whether the read
after the last of them fails instead of reporting the end (R245(d); log 17). -/
structure InStream (α : Type) where
  items : List α
  fails : Bool
  deriving DecidableEq, Repr

/-- A stream that never fails. -/
def InStream.ofList {α : Type} (items : List α) : InStream α := ⟨items, false⟩

/-- Everything up to the end of a stream, or its failure. -/
def InStream.readAll {α : Type} (input : InStream α) : Except HostFailure (List α) :=
  if input.fails then .error .ioFailure else .ok input.items

/-- What a collaborator hands the core to write to: how many writes it takes before one fails; `none`
never fails (R245(d); log 17). -/
structure OutStream where
  writes : Option Nat
  deriving DecidableEq, Repr

/-- A stream that never fails. -/
def OutStream.reliable : OutStream := ⟨none⟩

/-- One write: the stream after it, or nothing when it fails. -/
def OutStream.write (out : OutStream) : Option OutStream :=
  match out.writes with
  | none => some out
  | some 0 => none
  | some (left + 1) => some ⟨some left⟩

/-- What an operation on streams has emitted, and how it ended: with the machine, or by a failure, which
leaves what was emitted before it as it is (R245(e)). -/
structure Streamed (α : Type) where
  out    : List α
  ending : Except HostFailure State

/-- Turn the items of a stream into writes, one for one. The first failure ends the operation, be it of an
item, of a write, or of the read after the last item: no later item is used (DESIGN CHOICE, log 13). -/
def transform {α β : Type} (use : α → State → Except HostFailure (β × State)) (fails : Bool) :
    List α → OutStream → State → Streamed β
  | [], _, s => ⟨[], if fails then .error .ioFailure else .ok s⟩
  | x :: more, out, s =>
    match use x s with
    | .error e => ⟨[], .error e⟩
    | .ok (y, s) =>
      match out.write with
      | none => ⟨[], .error .ioFailure⟩
      | some out =>
        let rest := transform use fails more out s
        ⟨y :: rest.out, rest.ending⟩

/-! ### Hexadecimal text (R63, R203, R240, R241) -/

/-- A lowercase hexadecimal digit. -/
def hexDigit (d : Nat) : Char := if d < 10 then Char.ofNat (48 + d) else Char.ofNat (87 + d)

/-- The value of a lowercase hexadecimal digit. -/
def hexValue (c : Char) : Option Nat :=
  if 48 ≤ c.toNat ∧ c.toNat ≤ 57 then some (c.toNat - 48)
  else if 97 ≤ c.toNat ∧ c.toNat ≤ 102 then some (c.toNat - 87)
  else none

/-- The digits of `x` in front of `rest`, at most `limit` of them. -/
def hexOnto : Nat → Nat → List Char → List Char
  | 0, _, rest => rest
  | limit + 1, x, rest =>
    if x = 0 then rest else hexOnto limit (x / 16) (hexDigit (x % 16) :: rest)

/-- An integer as lowercase hexadecimal, most significant digit first, no leading "0x" (R63). -/
def toHex (x : Nat) : List Char := if x = 0 then ['0'] else hexOnto (bitlen x) x []

/-- Read hexadecimal digits after the value `acc`; a leading zero is a digit like any other (log 16). -/
def parseHexFrom : Nat → List Char → Option Nat
  | acc, [] => some acc
  | acc, c :: rest =>
    match hexValue c with
    | some d => parseHexFrom (acc * 16 + d) rest
    | none => none

/-- The integer a line of lowercase hexadecimal stands for; an empty line is none. Superfluous leading
zeros are accepted, in key files and in ciphertext lines: the spec does not say whether they are malformed
(DESIGN CHOICE, log 16). -/
def parseHex (line : List Char) : Option Nat :=
  match line with
  | [] => none
  | c :: rest => parseHexFrom 0 (c :: rest)

/-- The two lines of a public key file: n, owner (R240, R218). An owner with white space, which R240
excludes, is written unchecked, and `readPublicKey` rejects the file: what happens at writing time the spec
does not say (DESIGN CHOICE, log 15). -/
def publicKeyFile (n : Nat) (owner : List Char) : List (List Char) := [toHex n, owner]

/-- The two lines of a private key file: pq, d (R240, R218). -/
def privateKeyFile (pq d : Nat) : List (List Char) := [toHex pq, toHex d]

/-- Read a public key file (R240); malformed material is a failure of its own (R245(a)), and so is a file
that cannot be read (R245(d)). A file with more than two lines, be the extra one empty, is malformed
(DESIGN CHOICE, log 14). A modulus n that reads as 0 is accepted (DESIGN CHOICE, log 19). -/
def readPublicKey (file : InStream (List Char)) : Except HostFailure (Nat × List Char) := do
  match ← file.readAll with
  | [hexN, owner] =>
    match parseHex hexN with
    | some n => if owner.any Char.isWhitespace then .error .invalidKeyFile else .ok (n, owner)
    | none => .error .invalidKeyFile
  | _ => .error .invalidKeyFile

/-- Read a private key file (R240, R245(a), R245(d)): (pq, d). As for a public key file, more than two lines
are malformed (DESIGN CHOICE, log 14). A pq or d that reads as 0 is accepted, though no key has one (R201):
the spec does not say what a reader does with it (DESIGN CHOICE, log 19). -/
def readPrivateKey (file : InStream (List Char)) : Except HostFailure (Nat × Nat) := do
  match ← file.readAll with
  | [hexPq, hexD] =>
    match parseHex hexPq, parseHex hexD with
    | some pq, some d => .ok (pq, d)
    | _, _ => .error .invalidKeyFile
  | _ => .error .invalidKeyFile

/-- Write the lines of a key file, one write a line; a failed write ends it (R245(d)). -/
def writeKeyFile (lines : List (List Char)) (out : OutStream) (s : State) : Streamed (List Char) :=
  transform (fun line s => .ok (line, s)) false lines out s

/-! ### The block pipeline (R222 to R231) -/

/-- `encrypt_block(m, n)`: m to the power n modulo n (R222). -/
def encryptBlock (turns m n : Nat) (s : State) : Except HostFailure (Nat × State) := do
  let ((_, c), s) ← callEngine turns (powmodScript m n n) s
  pure (c, s)

/-- `decrypt_block(c, d, pq)`: c to the power d modulo pq (R223). -/
def decryptBlock (turns c d pq : Nat) (s : State) : Except HostFailure (Nat × State) := do
  let ((_, m), s) ← callEngine turns (powmodScript c d pq) s
  pure (m, s)

/-- Exponent and modulus are written once per stream (R231). Both stream operations do it before they read
their first item; when it is done the spec leaves open (DESIGN CHOICE, log 20). -/
def loadExponent (turns d n : Nat) (s : State) : Except HostFailure State :=
  perform turns [.write 3#3 d, .write 4#3 n] s

/-- One block of a stream: OPA is written, OPB and OPN stand (R22, R231). -/
def powerOfBlock (turns m : Nat) (s : State) : Except HostFailure (Nat × State) := do
  let ((_, c), s) ← callEngine turns [.wr .opa m, .cmd .powmod, .wait, .rd .res] s
  pure (c, s)

/-- One payload to its line of ciphertext, exponent and modulus loaded (R226, R231). -/
def encryptPayload (turns : Nat) (bytes : List Byte) (s : State) :
    Except HostFailure (List Char × State) := do
  let (c, s) ← powerOfBlock turns (blockToInteger bytes) s
  pure (toHex c, s)

/-- The payloads that can be read from a stream: a read that fails yields none, so that of a failing stream
the short last one is not there (R226, R227; log 17). -/
def readPayloads (size : Nat) (input : InStream Byte) : List (List Byte) :=
  let read := payloads size (input.items.length + 1) input.items
  if input.fails then read.dropLast else read

/-- `encrypt_stream(input_bytes, n)` (R225 to R227, R242). A modulus that leaves no room for a payload byte
is not addressed by the source (log 10). OPB and OPN are written before the first read (DESIGN CHOICE,
log 20). -/
def encryptStream (turns : Nat) (input : InStream Byte) (n : Nat) (out : OutStream) (s : State) :
    Streamed (List Char) :=
  let k := encryptBlockLength n
  if k < 2 then ⟨[], .error .unsuitableParameter⟩
  else
    match loadExponent turns n n s with
    | .error e => ⟨[], .error e⟩
    | .ok s => transform (encryptPayload turns) input.fails (readPayloads (k - 1) input) out s

/-- Can `c` be a ciphertext block for a private key of decryption block length `k`? Such a block is below
n = p²·q < (pq)², and pq has at most 8k + 9 bits (R202), so it takes at most 2k + 3 bytes (DEDUCED,
log 18). -/
def ciphertextSizeFits (k c : Nat) : Bool := (exportBytes c).length ≤ 2 * k + 3

/-- One line of ciphertext to the bytes of its block (R228, R229). A malformed line, bad hexadecimal or one
too long for a block, fails before anything of it reaches the engine (R245(e), R309, U18; log 18). -/
def decryptLine (turns k : Nat) (line : List Char) (s : State) :
    Except HostFailure (List Byte × State) :=
  match parseHex line with
  | none => .error .malformedLine
  | some c =>
    if ciphertextSizeFits k c then do
      let (m, s) ← powerOfBlock turns c s
      pure (integerToBlock m, s)
    else .error .malformedLine

/-- `decrypt_stream(ciphertext_lines, d, pq)` (R228, R231, R242): one write for each block. A line that fails
leaves what was emitted before it (R245(e)) and ends the operation: the lines after it are not decrypted,
which the spec leaves open (DESIGN CHOICE, log 13). OPB and OPN are written before the first line is read
or tested (DESIGN CHOICE, log 20). -/
def decryptStream (turns : Nat) (input : InStream (List Char)) (d pq : Nat) (out : OutStream)
    (s : State) : Streamed Byte :=
  match loadExponent turns d pq s with
  | .error e => ⟨[], .error e⟩
  | .ok s =>
    let blocks := transform (decryptLine turns (decryptBlockLength pq)) input.fails input.items out s
    ⟨blocks.out.flatten, blocks.ending⟩

end Sys2Proof.Machine
end

