-- ==== Sys2Proof/WellFormed.lean ====
section
/-! DEFINITION. What is well formed: a command word (R86), an instruction, and an event of a
schedule. -/

namespace Sys2Proof

/-- A command word is in format CMD8 when every bit above bit 7 is zero (R86). -/
def commandWordFits (w : Nat) : Bool := w < 256

/-- Every instruction is well formed: no command has an operand field (R89), so there is nothing to
check. -/
def Instr.wellFormed : Instr → Bool
  | .gcd => true
  | .modinv => true
  | .powmod => true
  | .isprime => true

/-- An event is well formed when the spec gives it a meaning: a draw is from a non-empty range (R12:
b ≥ 1). A write carries any value of ℕ (R80), a port address is three bits wide (R61). -/
def Machine.Event.wellFormed : Machine.Event → Bool
  | .hostDraw bound => 1 ≤ bound
  | .write _ _ => true
  | .read _ => true
  | .reset => true
  | .wait => true
  | .engine => true

/-- A schedule is well formed when each of its events is. -/
def Machine.scheduleWellFormed (es : List Machine.Event) : Bool := es.all Machine.Event.wellFormed

end Sys2Proof
end

