-- ==== Sys2Proof/Safety.lean ====
section
/-! DEFINITION. The terms in which claims are stated: turns of the engine alone, the invariant of every
run, and the functions of operands and draws that the commands compute. -/

namespace Sys2Proof.Machine

/-! ### Runs -/

/-- `n` turns of the engine with no host action between them, stopping where a turn stops. -/
def engineRun : Nat → State → StepResult
  | 0, s => .next s
  | n + 1, s =>
    match engineTurn s with
    | .next s' => engineRun n s'
    | .fault r => .fault r
    | .refused r => .refused r

/-! ### What the commands compute -/

/-- POWMOD's result (R130, R135): a^d mod n, and 1 for d = 0 whatever n is. -/
def powmodResult (a d n : Nat) : Nat := if d = 0 then 1 else a ^ d % n

/-- The verdict of a witness round (R161). -/
inductive Verdict where
  | pass
  | composite
  deriving DecidableEq, Repr

/-- The squaring loop of a witness round with `left` squarings still allowed (R161, from its
`while` line on). -/
def squaringVerdict (n : Nat) : Nat → Nat → Verdict
  | 0, y => if y + 1 = n then .pass else .composite
  | left + 1, y =>
    if y + 1 = n then .pass
    else if y * y % n = 1 then .composite
    else squaringVerdict n left (y * y % n)

/-- The witness round `MRRound(n, k, m, a)` (R161). -/
def MRRound (n k m a : Nat) : Verdict :=
  if a ^ m % n = 1 ∨ a ^ m % n + 1 = n then .pass
  else squaringVerdict n (k - 1) (a ^ m % n)

/-- The answer to the `e`-th `RandBelow(bound)` request from `s` on, counting from 0, when no other
request comes between (R12). -/
def State.answerAt (s : State) (bound e : Nat) : Nat :=
  (if h : e < s.answers.length then s.answers[e]
   else Config.freeDraw (s.requests.length + e)) % bound

/-! ### The invariant of every run -/

/-- Control state: CAUSE is set exactly in FAULT (R31); RES is 0 outside DONE (R24); NOINV is set only by
a finished MODINV with RES = 0 (R28); LASTOP is 0 or an opcode (R25), 0 in IDLE (R27), an opcode in DONE,
and in BUSY the opcode of the command PHASE belongs to (R30); a finished ISPRIME has answered 0 or 1
(R165). -/
structure State.ControlInv (s : State) : Prop where
  cause_iff    : s.cause ≠ .none ↔ s.state = .fault
  res_zero     : s.state ≠ .done → s.res = 0
  noinv_done   : s.noinv = true → s.state = .done ∧ s.res = 0 ∧ s.lastop = opcode .modinv
  lastop_legal : s.lastop.toNat ≤ 4
  idle_lastop  : s.state = .idle → s.lastop = 0#8
  done_lastop  : s.state = .done → s.lastop ≠ 0#8
  isprime_bool : s.state = .done → s.lastop = opcode .isprime → s.res ≤ 1

/-- The command a phase belongs to (R30). -/
def Phase.command : Phase → Instr
  | .gLoop => .gcd
  | .iLoop => .modinv
  | .iFin => .modinv
  | .pLoop => .powmod
  | .sPre => .isprime
  | .sSplit => .isprime
  | .sRound => .isprime
  | .sPow => .isprime
  | .sCheck => .isprime
  | .sSq => .isprime
  | .sEnd => .isprime

/-- GCD's invariant (R103). -/
def GcdInv (s : State) : Prop := Nat.gcd s.work.ga s.work.gb = Nat.gcd s.opa s.opb

/-- MODINV's invariant (R112), with a modulus. -/
def ModinvInv (s : State) : Prop :=
  1 ≤ s.opn ∧
  (s.work.r : Int) = s.work.s * s.opn + s.work.t * s.opa ∧
  (s.work.r' : Int) = s.work.s' * s.opn + s.work.t' * s.opa ∧
  Nat.gcd s.work.r s.work.r' = Nat.gcd s.opn s.opa

/-- POWMOD's invariant (R134), with a modulus; v is reduced, or still 1 with a multiply to come unless
the exponent is 0. -/
def PowmodInv (s : State) : Prop :=
  1 ≤ s.opn ∧
  s.work.v * s.work.p ^ s.work.i % s.opn = s.opa ^ s.opb % s.opn ∧
  (s.work.v < s.opn ∨ s.work.v = 1 ∧ (s.work.i = 0 → s.opb = 0)) ∧
  (s.opb = 0 → s.work.v = 1 ∧ s.work.i = 0)

/-- OPN − 1 = 2^k · m with OPN ≥ 4 (R154). -/
def SplitInv (s : State) : Prop := 4 ≤ s.opn ∧ s.opn = 2 ^ s.work.k * s.work.m + 1

/-- Between rounds: the split is complete and at most OPB rounds have passed (R154, R155). -/
def RoundInv (s : State) : Prop := SplitInv s ∧ s.work.m % 2 = 1 ∧ s.work.c ≤ s.opb

/-- Inside a round: one more round is allowed and the witness is in [2, OPN − 2] (R155, R156). -/
def WitnessInv (s : State) : Prop :=
  SplitInv s ∧ s.work.m % 2 = 1 ∧ s.work.c < s.opb ∧ 2 ≤ s.work.a ∧ s.work.a + 2 ≤ s.opn

/-- What holds of the working registers in each phase of a running command. -/
def PhaseInv (s : State) : Prop :=
  match s.phase with
  | .gLoop => GcdInv s
  | .iLoop => ModinvInv s
  | .iFin => ModinvInv s ∧ s.work.r' = 0
  | .pLoop => PowmodInv s
  | .sPre => True
  | .sSplit => SplitInv s
  | .sRound => RoundInv s
  | .sPow => WitnessInv s ∧ s.work.v < s.opn ∧
      s.work.v * s.work.p ^ s.work.i % s.opn = s.work.a ^ s.work.m % s.opn
  | .sCheck => WitnessInv s ∧ s.work.y = s.work.a ^ s.work.m % s.opn
  | .sSq => WitnessInv s ∧ 1 ≤ s.work.j ∧ s.work.y < s.opn ∧
      MRRound s.opn s.work.k s.work.m s.work.a
        = squaringVerdict s.opn (s.work.k - s.work.j) s.work.y
  | .sEnd => WitnessInv s ∧
      MRRound s.opn s.work.k s.work.m s.work.a
        = (if s.work.y + 1 = s.opn then .pass else .composite)

/-- The invariant that every step keeps: the control state is consistent, and while a command runs,
LASTOP names it and its working registers satisfy its phase's invariant. -/
structure State.Inv (s : State) : Prop where
  control : s.ControlInv
  running : s.state = .busy → s.lastop = opcode s.phase.command ∧ PhaseInv s

end Sys2Proof.Machine
end

