-- ==== Sys2Proof/Certificates/Slice0/Obligations.lean ====
section
/-! DEFINITION. The statements for the provers. -/

open Sys2Proof Sys2Proof.Machine

/-! ### Decoding and the step -/

/-- R86, R87, R88: a word decodes to a command exactly when it is that command's word, the words are 1 to
4 in the spec's order, and every other word is rejected under the reason that applies to it. -/
def Obligations.DecodeAcceptsExactlyTheFourCommandWords : Prop :=
  (∀ w i, decodeWord w = .ok i ↔ w = encodeWord i) ∧
  encodeWord .gcd = 1 ∧ encodeWord .modinv = 2 ∧ encodeWord .powmod = 3 ∧ encodeWord .isprime = 4 ∧
  (∀ w, decodeWord w = .error .highBitsSet ↔ 256 ≤ w) ∧
  (∀ w, decodeWord w = .error .unknownOpcode ↔ w = 0 ∨ 5 ≤ w ∧ w < 256)

/-- The words of spec/30_encoding.md's opcode map, written out, and the illegal words of
spec/95_test_vectors.md S7 to S12. -/
def Obligations.SampleWordsDecodeAsTheSpecSays : Prop :=
  decodeWord 0b00000001 = .ok .gcd ∧ decodeWord 0b00000010 = .ok .modinv ∧
  decodeWord 0b00000011 = .ok .powmod ∧ decodeWord 0b00000100 = .ok .isprime ∧
  decodeWord 0 = .error .unknownOpcode ∧ decodeWord 5 = .error .unknownOpcode ∧
  decodeWord 255 = .error .unknownOpcode ∧ decodeWord 256 = .error .highBitsSet ∧
  decodeWord 0x103 = .error .highBitsSet ∧ decodeWord (2 ^ 64 + 1) = .error .highBitsSet

/-- When the next event is a write to CMD of a word that decodes to `i`, the step is `exec i` in the state
with that event taken off the schedule. The model's form of R85 (there is no fetch, R41). -/
def Obligations.StepExecutesTheDecodedCommand : Prop :=
  ∀ (s : State) (w : Nat) (rest : List Event) (i : Instr),
    s.schedule = .write 0#3 w :: rest → decodeWord w = .ok i →
    step s = exec i { s with schedule := rest }

/-- A step with nothing pending, and one whose next event is the engine's, is a turn of the engine (the
model's form of R13; log 4). -/
def Obligations.StepGivesTheEngineItsTurn : Prop :=
  ∀ s : State,
    (s.schedule = [] → step s = engineTurn s) ∧
    (∀ rest, s.schedule = .engine :: rest → step s = engineTurn { s with schedule := rest }) ∧
    (s.state ≠ .busy → engineTurn s = .next s)

/-! ### Reset -/

/-- R45: after Reset, and in the model's reset state, every element has the listed value, STATUS reads
0x00, the generator is not touched, and with nothing pending the engine waits in IDLE. -/
def Obligations.ResetLeavesTheListedValues : Prop :=
  (∀ (s : State) (rest : List Event), s.schedule = .reset :: rest →
    ∃ t, step s = .next t ∧ t.opa = 0 ∧ t.opb = 0 ∧ t.opn = 0 ∧ t.res = 0 ∧ t.lastop = 0#8 ∧
      t.state = .idle ∧ t.noinv = false ∧ t.herr = false ∧ t.cause = .none ∧
      statusByte t = 0#8 ∧ t.answers = s.answers ∧ t.requests = s.requests ∧
      t.schedule = rest ∧ t.seen = s.seen) ∧
  State.reset.opa = 0 ∧ State.reset.opb = 0 ∧ State.reset.opn = 0 ∧ State.reset.res = 0 ∧
  State.reset.lastop = 0#8 ∧ State.reset.state = .idle ∧ State.reset.noinv = false ∧
  State.reset.herr = false ∧ State.reset.cause = .none ∧ statusByte State.reset = 0#8 ∧
  step State.reset = .next State.reset

/-- R340: no step but Reset leaves FAULT, clears HERR, or stops a running command before it completes. -/
def Obligations.OnlyResetLeavesFaultClearsHerrOrStopsACommand : Prop :=
  ∀ s t : State, step s = .next t → (∀ rest, s.schedule ≠ .reset :: rest) →
    (s.state = .fault → t.state = .fault ∧ t.cause = s.cause) ∧
    (s.herr = true → t.herr = true) ∧
    (s.state = .busy → t.state = .busy ∨
      t.state = .done ∧ (s.schedule = [] ∨ ∃ rest, s.schedule = .engine :: rest) ∧
        microStep { s with schedule := t.schedule } = .next t)

/-! ### The port -/

/-- R26: the layout of STATUS, its reset value, and that it cannot be written and is read without effect. -/
def Obligations.StatusByteHasTheSpecifiedLayout : Prop :=
  (∀ s : State,
    (statusByte s).toNat = s.state.code + 4 * s.noinv.toNat + 8 * s.herr.toNat + 16 * s.cause.code ∧
    (statusByte s).extractLsb 1 0 = BitVec.ofNat 2 s.state.code ∧
    (statusByte s).getLsbD 2 = s.noinv ∧ (statusByte s).getLsbD 3 = s.herr ∧
    (statusByte s).extractLsb 5 4 = BitVec.ofNat 2 s.cause.code ∧ s.cause.code ≤ 2 ∧
    (statusByte s).extractLsb 7 6 = 0#2) ∧
  RunState.code .idle = 0 ∧ RunState.code .busy = 1 ∧ RunState.code .done = 2 ∧
  RunState.code .fault = 3 ∧
  Cause.code .none = 0 ∧ Cause.code .illegalCmd = 1 ∧ Cause.code .modZero = 2 ∧
  statusByte State.reset = 0#8 ∧
  (∀ (s : State) (v : Nat) (rest : List Event), s.schedule = .write 1#3 v :: rest →
    step s = .next { s with schedule := rest, herr := true }) ∧
  (∀ (s : State) (rest : List Event), s.schedule = .read 1#3 :: rest →
    step s = .next { s with schedule := rest, seen := .read 1#3 (statusByte s).toNat :: s.seen })

/-- R81: a read is accepted in every state, returns the mapped register, and changes no state of the
engine. -/
def Obligations.ReadReturnsTheMappedRegister : Prop :=
  ∀ (s : State) (addr : PortAddr) (rest : List Event), s.schedule = .read addr :: rest →
    ∃ v, step s = .next { s with schedule := rest, seen := .read addr v :: s.seen } ∧
      (addr = 0#3 → v = s.lastop.toNat) ∧
      (addr = 1#3 →
        v = s.state.code + 4 * s.noinv.toNat + 8 * s.herr.toNat + 16 * s.cause.code) ∧
      (addr = 2#3 → v = s.opa) ∧ (addr = 3#3 → v = s.opb) ∧ (addr = 4#3 → v = s.opn) ∧
      (addr = 5#3 → v = s.res) ∧ (addr = 6#3 ∨ addr = 7#3 → v = 0)

/-- R83: a write to OPA, OPB or OPN in IDLE or DONE sets that register and changes nothing else. -/
def Obligations.AcceptedOperandWriteSetsOnlyItsRegister : Prop :=
  ∀ (s : State) (addr : PortAddr) (v : Nat) (rest : List Event),
    s.schedule = .write addr v :: rest → s.state = .idle ∨ s.state = .done →
    (addr = 2#3 → step s = .next { s with schedule := rest, opa := v }) ∧
    (addr = 3#3 → step s = .next { s with schedule := rest, opb := v }) ∧
    (addr = 4#3 → step s = .next { s with schedule := rest, opn := v })

/-- R84: the writes that are dropped, and that they set HERR and change nothing else; every other write
is processed as R83 and R85 say, without touching HERR. -/
def Obligations.DroppedWriteSetsOnlyHerr : Prop :=
  ∀ (s : State) (addr : PortAddr) (v : Nat) (rest : List Event),
    s.schedule = .write addr v :: rest →
    (s.state = .busy ∨ s.state = .fault ∨
        addr = 1#3 ∨ addr = 5#3 ∨ addr = 6#3 ∨ addr = 7#3 →
      step s = .next { s with schedule := rest, herr := true }) ∧
    (¬(s.state = .busy ∨ s.state = .fault ∨
        addr = 1#3 ∨ addr = 5#3 ∨ addr = 6#3 ∨ addr = 7#3) →
      ∃ t, step s = .next t ∧ t.herr = s.herr)

/-- R85 and R306: what a write to CMD does, in the order of its checks, with the working registers each
command's accept loads (R101, R113, R132, R152). -/
def Obligations.CommandIssueFollowsTheOrderOfChecks : Prop :=
  ∀ (s : State) (w : Nat) (rest : List Event), s.schedule = .write 0#3 w :: rest →
    (s.state = .busy ∨ s.state = .fault →
      step s = .next { s with schedule := rest, herr := true }) ∧
    (s.state = .idle ∨ s.state = .done →
      (w ∉ [1, 2, 3, 4] →
        step s = .next { s with
          schedule := rest, res := 0, noinv := false, cause := .illegalCmd, state := .fault }) ∧
      (w ∈ [2, 3] → s.opn = 0 →
        step s = .next { s with
          schedule := rest, res := 0, noinv := false, cause := .modZero, state := .fault }) ∧
      (w = 1 →
        step s = .next { s with
          schedule := rest, res := 0, noinv := false, lastop := 1#8, state := .busy,
          phase := .gLoop, work := { s.work with ga := s.opa, gb := s.opb } }) ∧
      (w = 2 → s.opn ≠ 0 →
        step s = .next { s with
          schedule := rest, res := 0, noinv := false, lastop := 2#8, state := .busy,
          phase := .iLoop,
          work := { s.work with r := s.opn, r' := s.opa, s := 1, s' := 0, t := 0, t' := 1 } }) ∧
      (w = 3 → s.opn ≠ 0 →
        step s = .next { s with
          schedule := rest, res := 0, noinv := false, lastop := 3#8, state := .busy,
          phase := .pLoop, work := { s.work with v := 1, p := s.opa, i := s.opb } }) ∧
      (w = 4 →
        step s = .next { s with
          schedule := rest, res := 0, noinv := false, lastop := 4#8, state := .busy,
          phase := .sPre }))

/-- spec/00_scope.md section 4 (MAXBITS): with `some B` a write is refused exactly when its value has more
than B bits and is otherwise what it is unbounded; the machine's own MAXBITS is `none` and refuses
nothing. -/
def Obligations.MaxBitsOnlyRefusesLongerValues : Prop :=
  (∀ (B : Nat) (addr : PortAddr) (v : Nat) (s : State),
    (2 ^ B ≤ v → portWrite (some B) addr v s = .refused .valueExceedsMaxBits) ∧
    (v < 2 ^ B → portWrite (some B) addr v s = portWrite none addr v s)) ∧
  Config.maxBits = none ∧
  (∀ (s : State) (r : Refusal), step s ≠ .refused r)

/-! ### Faults and flags -/

/-- R304: FAULT is entered only by a command issue, with RES = 0, NOINV = 0 and everything but CAUSE and
STATE as it was; from then on the engine accepts no write. -/
def Obligations.FaultIsEnteredOnlyByAFaultingIssue : Prop :=
  ∀ s t : State, step s = .next t → s.state ≠ .fault → t.state = .fault →
    ∃ w rest, s.schedule = .write 0#3 w :: rest ∧ (s.state = .idle ∨ s.state = .done) ∧
      ((w ∉ [1, 2, 3, 4] ∧ t.cause = .illegalCmd) ∨
        (w ∈ [2, 3] ∧ s.opn = 0 ∧ t.cause = .modZero)) ∧
      t = { s with
        schedule := rest, res := 0, noinv := false, cause := t.cause, state := .fault } ∧
      ∀ addr v more, step { t with schedule := .write addr v :: more } =
        .next { t with schedule := more, herr := true }

/-- R305: FAULT is terminal. However long the machine runs, while no Reset is pending it stays in FAULT
with the same cause and takes no write, and it never stops answering. -/
def Obligations.FaultIsTerminalUntilReset : Prop :=
  ∀ (n : Nat) (s : State), s.state = .fault → .reset ∉ s.schedule →
    scheduleWellFormed s.schedule = true →
    ∃ t, Host.Core.run Sys2Proof.core n s = .next t ∧ t.state = .fault ∧ t.cause = s.cause ∧
      t.opa = s.opa ∧ t.opb = s.opb ∧ t.opn = s.opn ∧ t.res = s.res ∧ t.lastop = s.lastop ∧
      t.noinv = s.noinv ∧ t.phase = s.phase ∧ t.work = s.work ∧ (s.herr = true → t.herr = true)

/-- R27: every transition of STATE, by the event that makes it. -/
def Obligations.RunStateChangesOnlyAsTheTableSays : Prop :=
  ∀ s t : State, step s = .next t →
    (∀ rest, s.schedule = .reset :: rest → t.state = .idle) ∧
    (∀ addr v rest, s.schedule = .write addr v :: rest →
      t.state =
        if addr = 0#3 ∧ (s.state = .idle ∨ s.state = .done) then
          if v ∈ [1, 2, 3, 4] ∧ ¬(v ∈ [2, 3] ∧ s.opn = 0) then .busy else .fault
        else s.state) ∧
    (∀ addr rest, s.schedule = .read addr :: rest → t.state = s.state) ∧
    (∀ rest, s.schedule = .wait :: rest → t.state = s.state) ∧
    (∀ b rest, s.schedule = .hostDraw b :: rest → t.state = s.state) ∧
    ((s.schedule = [] ∨ ∃ rest, s.schedule = .engine :: rest) →
      (s.state = .busy ∧ (t.state = .busy ∨ t.state = .done)) ∨
      (s.state ≠ .busy ∧ t.state = s.state))

/-- R29: HERR becomes 1 only by a dropped write, is cleared only by Reset, and never changes what the
engine computes: any number of turns with HERR set gives what the turns without it give, HERR apart. -/
def Obligations.HerrIsStickyAndDoesNotDisturbACommand : Prop :=
  (∀ (s : State) (addr : PortAddr) (v : Nat) (rest : List Event),
    s.schedule = .write addr v :: rest →
    s.state = .busy ∨ s.state = .fault ∨ addr = 1#3 ∨ addr = 5#3 ∨ addr = 6#3 ∨ addr = 7#3 →
    ∃ t, step s = .next t ∧ t.herr = true) ∧
  (∀ s t : State, step s = .next t → s.herr = false → t.herr = true →
    ∃ addr v rest, s.schedule = .write addr v :: rest ∧
      t = { s with schedule := rest, herr := true }) ∧
  (∀ s t : State, step s = .next t → s.herr = true → t.herr = false →
    ∃ rest, s.schedule = .reset :: rest) ∧
  (∀ (n : Nat) (s t : State), engineRun n s = .next t →
    engineRun n { s with herr := true } = .next { t with herr := true })

/-- R28: NOINV becomes 1 only in MODINV's completing micro-step on r > 1, together with RES = 0 and
STATE = DONE; it becomes 0 only by a command word processed in IDLE or DONE, or by Reset. -/
def Obligations.NoinvIsSetOnlyByModinvAndClearedByIssueOrReset : Prop :=
  ∀ s t : State, step s = .next t →
    (s.noinv = false → t.noinv = true →
      s.state = .busy ∧ s.phase = .iFin ∧ 1 < s.work.r ∧ t.res = 0 ∧ t.state = .done) ∧
    (s.state = .busy → s.phase = .iFin → 1 < s.work.r →
      s.schedule = [] ∨ (∃ rest, s.schedule = .engine :: rest) →
      t.noinv = true ∧ t.res = 0 ∧ t.state = .done) ∧
    (s.noinv = true → t.noinv = false →
      (∃ rest, s.schedule = .reset :: rest) ∨
      ∃ w rest, s.schedule = .write 0#3 w :: rest ∧ (s.state = .idle ∨ s.state = .done)) ∧
    (∀ rest, s.schedule = .reset :: rest → t.noinv = false) ∧
    (∀ w rest, s.schedule = .write 0#3 w :: rest → s.state = .idle ∨ s.state = .done →
      t.noinv = false)

/-! ### Who writes the registers -/

/-- R22 and R23: OPA, OPB and OPN change only by an accepted write to their address, which stores the
written value there, and by Reset. -/
def Obligations.OperandsChangeOnlyByAcceptedWritesAndReset : Prop :=
  ∀ s t : State, step s = .next t → (∀ rest, s.schedule ≠ .reset :: rest) →
    (t.opa ≠ s.opa →
      ∃ v rest, s.schedule = .write 2#3 v :: rest ∧ (s.state = .idle ∨ s.state = .done) ∧ t.opa = v) ∧
    (t.opb ≠ s.opb →
      ∃ v rest, s.schedule = .write 3#3 v :: rest ∧ (s.state = .idle ∨ s.state = .done) ∧ t.opb = v) ∧
    (t.opn ≠ s.opn →
      ∃ v rest, s.schedule = .write 4#3 v :: rest ∧ (s.state = .idle ∨ s.state = .done) ∧ t.opn = v)

/-- R24: RES changes only to 0 by a processed command word or Reset, or by `complete` at the end of a
command. -/
def Obligations.ResultIsWrittenOnlyByIssueCompleteAndReset : Prop :=
  ∀ s t : State, step s = .next t → t.res ≠ s.res →
    (t.res = 0 ∧ ∃ rest, s.schedule = .reset :: rest) ∨
    (t.res = 0 ∧ ∃ w rest, s.schedule = .write 0#3 w :: rest ∧ (s.state = .idle ∨ s.state = .done)) ∨
    (s.state = .busy ∧ t.state = .done)

/-- R25: LASTOP changes only to the opcode of a command that is started, and by Reset; a word that faults
or is dropped leaves it. -/
def Obligations.LastopIsTheMostRecentlyStartedCommand : Prop :=
  ∀ s t : State, step s = .next t →
    (t.lastop ≠ s.lastop →
      (t.lastop = 0#8 ∧ ∃ rest, s.schedule = .reset :: rest) ∨
      ∃ i rest, s.schedule = .write 0#3 (encodeWord i) :: rest ∧
        (s.state = .idle ∨ s.state = .done) ∧ t.state = .busy ∧ t.lastop = opcode i) ∧
    (s.state ≠ .busy → t.state = .busy →
      ∃ i rest, s.schedule = .write 0#3 (encodeWord i) :: rest ∧
        (s.state = .idle ∨ s.state = .done) ∧ t.lastop = opcode i)

/-! ### The micro-steps -/

/-- R102: the micro-step at G_LOOP. -/
def Obligations.GcdMicroStepReducesOrCompletes : Prop :=
  ∀ s : State, s.state = .busy → s.phase = .gLoop →
    (s.work.gb = 0 → engineTurn s = .next { s with res := s.work.ga, state := .done }) ∧
    (s.work.gb ≠ 0 → engineTurn s = .next { s with
      work := { s.work with ga := s.work.gb, gb := s.work.ga % s.work.gb } })

/-- R114, R116 and R117: the micro-steps at I_LOOP and, with a modulus, at I_FIN. -/
def Obligations.ModinvMicroStepsFollowTheRecurrence : Prop :=
  ∀ s : State, s.state = .busy →
    (s.phase = .iLoop → s.work.r' = 0 → engineTurn s = .next { s with phase := .iFin }) ∧
    (s.phase = .iLoop → s.work.r' ≠ 0 →
      ∃ w, engineTurn s = .next { s with work := w } ∧
        w.q * s.work.r' ≤ s.work.r ∧ s.work.r < (w.q + 1) * s.work.r' ∧
        w.r = s.work.r' ∧ w.r' + w.q * s.work.r' = s.work.r ∧ w.r' = s.work.r % s.work.r' ∧
        w.s = s.work.s' ∧ w.s' = s.work.s - w.q * s.work.s' ∧
        w.t = s.work.t' ∧ w.t' = s.work.t - w.q * s.work.t' ∧
        w = { s.work with
          q := w.q, r := w.r, r' := w.r', s := w.s, s' := w.s', t := w.t, t' := w.t' }) ∧
    (s.phase = .iFin → s.opn ≠ 0 → s.work.r ≤ 1 →
      ∃ o, engineTurn s = .next { s with res := o, state := .done } ∧
        o < s.opn ∧ (s.opn : Int) ∣ s.work.t - o) ∧
    (s.phase = .iFin → 1 < s.work.r →
      engineTurn s = .next { s with noinv := true, res := 0, state := .done })

/-- R133: the micro-step at P_LOOP, with a modulus. -/
def Obligations.PowmodMicroStepSquaresAndMultiplies : Prop :=
  ∀ s : State, s.state = .busy → s.phase = .pLoop →
    (s.work.i = 0 → engineTurn s = .next { s with res := s.work.v, state := .done }) ∧
    (s.work.i ≠ 0 → s.opn ≠ 0 → engineTurn s = .next { s with
      work := { s.work with
        v := if s.work.i % 2 = 1 then (s.work.v * s.work.p) % s.opn else s.work.v
        p := (s.work.p * s.work.p) % s.opn
        i := s.work.i / 2 } })

/-- R153 and R154: the micro-steps at S_PRE and S_SPLIT. -/
def Obligations.IsprimeSmallCasesAndSplit : Prop :=
  ∀ s : State, s.state = .busy →
    (s.phase = .sPre →
      (s.opn = 0 ∨ s.opn = 1 → engineTurn s = .next { s with res := 0, state := .done }) ∧
      (s.opn = 2 ∨ s.opn = 3 → engineTurn s = .next { s with res := 1, state := .done }) ∧
      (4 ≤ s.opn → engineTurn s = .next { s with
        work := { s.work with m := s.opn - 1, k := 0 }, phase := .sSplit })) ∧
    (s.phase = .sSplit →
      (s.work.m % 2 = 0 → engineTurn s = .next { s with
        work := { s.work with m := s.work.m / 2, k := s.work.k + 1 } }) ∧
      (s.work.m % 2 = 1 → engineTurn s = .next { s with
        work := { s.work with c := 0 }, phase := .sRound }))

/-- R155, R156, R12 and R44: S_ROUND completes with 1 after OPB rounds, else draws one witness in
[2, OPN − 2]; the answer is the next one of the shared generator, and no answer is preferred: each value
of [0, OPN − 3) is the answer in some state that differs in the generator only. -/
def Obligations.IsprimeRoundDrawsOneWitness : Prop :=
  ∀ s : State, s.state = .busy → s.phase = .sRound →
    (s.work.c = s.opb → engineTurn s = .next { s with res := 1, state := .done }) ∧
    (s.work.c ≠ s.opb → 4 ≤ s.opn →
      (∃ u, u < s.opn - 3 ∧ engineTurn s = .next { s with
        answers := s.answers.tail, requests := (s.opn - 3) :: s.requests, phase := .sPow
        work := { s.work with a := u + 2, v := 1, p := u + 2, i := s.work.m } }) ∧
      (∀ u, u < s.opn - 3 → ∀ more,
        engineTurn { s with answers := u :: more } = .next { s with
          answers := more, requests := (s.opn - 3) :: s.requests, phase := .sPow
          work := { s.work with a := u + 2, v := 1, p := u + 2, i := s.work.m } }))

/-- R157 to R160: the micro-steps of a witness round, with a modulus. -/
def Obligations.IsprimeWitnessRoundMicroSteps : Prop :=
  ∀ s : State, s.state = .busy → 4 ≤ s.opn →
    (s.phase = .sPow →
      (s.work.i = 0 → engineTurn s = .next { s with
        work := { s.work with y := s.work.v }, phase := .sCheck }) ∧
      (s.work.i ≠ 0 → engineTurn s = .next { s with
        work := { s.work with
          v := if s.work.i % 2 = 1 then (s.work.v * s.work.p) % s.opn else s.work.v
          p := (s.work.p * s.work.p) % s.opn
          i := s.work.i / 2 } })) ∧
    (s.phase = .sCheck →
      (s.work.y = 1 ∨ s.work.y = s.opn - 1 → engineTurn s = .next { s with
        work := { s.work with c := s.work.c + 1 }, phase := .sRound }) ∧
      (s.work.y ≠ 1 → s.work.y ≠ s.opn - 1 → engineTurn s = .next { s with
        work := { s.work with j := 1 }, phase := .sSq })) ∧
    (s.phase = .sSq →
      (s.work.j < s.work.k → s.work.y ≠ s.opn - 1 → s.work.y * s.work.y % s.opn = 1 →
        engineTurn s = .next { s with
          work := { s.work with y := 1 }, res := 0, state := .done }) ∧
      (s.work.j < s.work.k → s.work.y ≠ s.opn - 1 → s.work.y * s.work.y % s.opn ≠ 1 →
        engineTurn s = .next { s with
          work := { s.work with y := s.work.y * s.work.y % s.opn, j := s.work.j + 1 } }) ∧
      (s.work.k ≤ s.work.j ∨ s.work.y = s.opn - 1 →
        engineTurn s = .next { s with phase := .sEnd })) ∧
    (s.phase = .sEnd →
      (s.work.y ≠ s.opn - 1 → engineTurn s = .next { s with res := 0, state := .done }) ∧
      (s.work.y = s.opn - 1 → engineTurn s = .next { s with
        work := { s.work with c := s.work.c + 1 }, phase := .sRound }))

/-- R112: the Bézout equations hold after MODINV is accepted and after every I_LOOP micro-step. -/
def Obligations.ModinvKeepsBezoutsEquations : Prop :=
  (∀ s : State, accepting s = true → s.opn ≠ 0 →
    ∃ t, exec .modinv s = .next t ∧ ModinvInv t) ∧
  (∀ s t : State, s.state = .busy → s.phase = .iLoop → ModinvInv s →
    engineTurn s = .next t → ModinvInv t)

/-! ### The four commands, from issue to result -/

/-- R100, R101 and R103: in IDLE or DONE, GCD is accepted for every pair of operands, and the engine left
to itself completes after at most OPB + 1 turns with RES = gcd(OPA, OPB), BUSY with RES = 0 until then.
Nothing but RES, STATE, NOINV, LASTOP, PHASE and the working registers differs from before the issue. -/
def Obligations.GcdRunsToTheGreatestCommonDivisor : Prop :=
  ∀ s : State, accepting s = true →
    ∃ t, exec .gcd s = .next t ∧
      t = { s with
        res := 0, noinv := false, lastop := 1#8, state := .busy, phase := .gLoop,
        work := { s.work with ga := s.opa, gb := s.opb } } ∧
      ∃ n w, n ≤ s.opb + 1 ∧
        engineRun n t = .next { t with
          res := Nat.gcd s.opa s.opb, state := .done, work := w } ∧
        ∀ k, k < n → ∃ u, engineRun k t = .next u ∧ u.state = .busy ∧ u.res = 0

/-- R110, R113, R115 and R119: in IDLE or DONE with OPN ≥ 1, MODINV is accepted, and the engine left to
itself completes after at most OPA + 2 turns: with gcd(OPA, OPN) = 1 NOINV = 0 and RES is the unique
inverse in [0, OPN), else NOINV = 1 and RES = 0. -/
def Obligations.ModinvRunsToTheInverseOrNoinv : Prop :=
  ∀ s : State, accepting s = true → s.opn ≠ 0 →
    ∃ t, exec .modinv s = .next t ∧
      t = { s with
        res := 0, noinv := false, lastop := 2#8, state := .busy, phase := .iLoop,
        work := { s.work with r := s.opn, r' := s.opa, s := 1, s' := 0, t := 0, t' := 1 } } ∧
      ∃ n o flag w, n ≤ s.opa + 2 ∧
        engineRun n t = .next { t with
          res := o, noinv := flag, state := .done, phase := .iFin, work := w } ∧
        (Nat.gcd s.opa s.opn = 1 → flag = false ∧ o < s.opn ∧
          (s.opn : Int) ∣ (s.opa : Int) * o - 1 ∧
          (∀ o' : Nat, o' < s.opn → (s.opn : Int) ∣ (s.opa : Int) * o' - 1 → o' = o) ∧
          (2 ≤ s.opn → s.opa * o % s.opn = 1)) ∧
        (Nat.gcd s.opa s.opn ≠ 1 → flag = true ∧ o = 0) ∧
        ∀ k, k < n → ∃ u, engineRun k t = .next u ∧ u.state = .busy ∧ u.res = 0

/-- R130, R132, R134 and R136: in IDLE or DONE with OPN ≥ 1, POWMOD is accepted, and the engine left to
itself completes in exactly bitlen(OPB) + 1 turns with RES = OPA^OPB mod OPN for OPN ≥ 2; for OPN = 1 RES
is 1 when OPB = 0 and 0 otherwise. -/
def Obligations.PowmodRunsToThePower : Prop :=
  ∀ s : State, accepting s = true → s.opn ≠ 0 →
    ∃ t, exec .powmod s = .next t ∧
      t = { s with
        res := 0, noinv := false, lastop := 3#8, state := .busy, phase := .pLoop,
        work := { s.work with v := 1, p := s.opa, i := s.opb } } ∧
      ∃ o w,
        engineRun (bitlen s.opb + 1) t = .next { t with res := o, state := .done, work := w } ∧
        (2 ≤ s.opn → o = s.opa ^ s.opb % s.opn) ∧
        (s.opn = 1 → o = if s.opb = 0 then 1 else 0) ∧
        ∀ k, k < bitlen s.opb + 1 → ∃ u, engineRun k t = .next u ∧ u.state = .busy ∧ u.res = 0

/-- R150, R152, R161, R162 and R163: in IDLE or DONE, ISPRIME is accepted for every pair of operands, and
the engine left to itself completes. n = 0, 1 give 0 and n = 2, 3 give 1 with no request. For n ≥ 4 split
as 2^k·m + 1, with the witness of round x (counting from 0) two more than the x-th answer of the
generator: RES = 1 when all OPB rounds pass, after OPB requests; else RES = 0 at the first round that does
not, with one request per round started; every request has the bound n − 3. How answers are held and
numbered (`answerAt`, `answers`, `requests`) is the model's choice (log 2). -/
def Obligations.IsprimeRunsToTheMillerRabinVerdict : Prop :=
  ∀ (s : State) (k m : Nat), accepting s = true →
    (4 ≤ s.opn → s.opn = 2 ^ k * m + 1 ∧ m % 2 = 1) →
    ∃ t, exec .isprime s = .next t ∧
      t = { s with
        res := 0, noinv := false, lastop := 4#8, state := .busy, phase := .sPre } ∧
      ∃ n e o ph w,
        engineRun n t = .next { t with
          res := o, state := .done, phase := ph, work := w, answers := s.answers.drop e,
          requests := List.replicate e (s.opn - 3) ++ s.requests } ∧
        (s.opn < 2 → o = 0 ∧ e = 0) ∧
        (s.opn = 2 ∨ s.opn = 3 → o = 1 ∧ e = 0) ∧
        (4 ≤ s.opn →
          (o = 1 ∧ e = s.opb ∧
            ∀ x, x < s.opb → MRRound s.opn k m (s.answerAt (s.opn - 3) x + 2) = .pass) ∨
          (o = 0 ∧ 1 ≤ e ∧ e ≤ s.opb ∧
            (∀ x, x < e - 1 → MRRound s.opn k m (s.answerAt (s.opn - 3) x + 2) = .pass) ∧
            MRRound s.opn k m (s.answerAt (s.opn - 3) (e - 1) + 2) = .composite)) ∧
        ∀ j, j < n → ∃ u, engineRun j t = .next u ∧ u.state = .busy ∧ u.res = 0

/-- R302 for the form that faults: MODINV and POWMOD with OPN = 0 take the fault MOD_ZERO, GCD and ISPRIME
never do. -/
def Obligations.ZeroModulusFaultsModinvAndPowmodOnly : Prop :=
  ∀ s : State, accepting s = true → s.opn = 0 →
    exec .modinv s = .next { s with
      res := 0, noinv := false, cause := .modZero, state := .fault } ∧
    exec .powmod s = .next { s with
      res := 0, noinv := false, cause := .modZero, state := .fault } ∧
    (∃ t, exec .gcd s = .next t ∧ t.state = .busy ∧ t.cause = s.cause) ∧
    (∃ t, exec .isprime s = .next t ∧ t.state = .busy ∧ t.cause = s.cause)

/-! ### The witness round and primes -/

/-- The equivalence of R161: a round passes exactly when a^m ≡ 1, or a^(2^e·m) ≡ −1 for some e ≤ k − 1,
modulo n; for k = 0 only e = 0 is allowed. -/
def Obligations.WitnessRoundPassesExactlyOnStrongProbablePrimes : Prop :=
  ∀ n k m a : Nat, 4 ≤ n →
    (MRRound n k m a = .pass ↔
      a ^ m % n = 1 ∨ ∃ e, e ≤ k - 1 ∧ a ^ (2 ^ e * m) % n = n - 1)

/-- The first property of R166, as a fact about `MRRound`: for prime n no witness of [2, n − 2] returns
COMPOSITE. -/
def Obligations.NoWitnessCondemnsAPrime : Prop :=
  ∀ n k m a : Nat, Nat.Prime n → n = 2 ^ k * m + 1 → 2 ≤ a → a + 2 ≤ n →
    MRRound n k m a = .pass

/-! ### Invariants and whole-machine rules -/

/-- The invariant holds right after reset. -/
def Obligations.InvariantHoldsAtReset : Prop := State.reset.Inv

/-- Every step keeps the invariant, whatever the host does and however it interleaves with the engine. -/
def Obligations.EveryStepKeepsTheInvariant : Prop :=
  ∀ s t : State, s.Inv → step s = .next t → t.Inv

/-- R182 and R303: from every state of the invariant with a well-formed schedule, a step has a next state.
No division by zero is ever evaluated, no draw is from an empty range, no micro-step faults. -/
def Obligations.NoStepStopsUnderTheInvariant : Prop :=
  ∀ s : State, s.Inv → scheduleWellFormed s.schedule = true →
    ∃ t, step s = .next t ∧ scheduleWellFormed t.schedule = true

/-- R24 and R31, whatever the interleaving: under the invariant RES reads 0 while BUSY or FAULT, CAUSE is
0 outside FAULT, and a fault names its cause. -/
def Obligations.OutcomeRegistersReadAsTheirStateSays : Prop :=
  ∀ s t : State, s.Inv → step s = .next t →
    (t.state = .busy ∨ t.state = .fault ∨ t.state = .idle →
      portValue 5#3 t = 0 ∧ (statusByte t).getLsbD 2 = false) ∧
    (t.state ≠ .fault → (statusByte t).extractLsb 5 4 = 0#2) ∧
    (t.state = .fault → (statusByte t).extractLsb 5 4 ≠ 0#2) ∧
    (statusByte t).extractLsb 7 6 = 0#2 ∧ portValue 0#3 t ≤ 4

/-- Under every interleaving of host and engine: the step in which a command completes leaves its result,
a function of the operands (and, for ISPRIME, a verdict that is 1 for a prime, and 0 only for n < 2 or
with a witness that condemns n). -/
def Obligations.CompletionLeavesTheResultUnderEveryInterleaving : Prop :=
  ∀ s t : State, s.Inv → s.state = .busy → step s = .next t → t.state = .done →
    (s.lastop = 1#8 → t.res = Nat.gcd s.opa s.opb) ∧
    (s.lastop = 2#8 →
      (Nat.gcd s.opa s.opn = 1 → t.noinv = false ∧ t.res < s.opn ∧
        (s.opn : Int) ∣ (s.opa : Int) * t.res - 1) ∧
      (Nat.gcd s.opa s.opn ≠ 1 → t.noinv = true ∧ t.res = 0)) ∧
    (s.lastop = 3#8 → t.res = powmodResult s.opa s.opb s.opn) ∧
    (s.lastop = 4#8 →
      (t.res = 0 ∨ t.res = 1) ∧
      (t.res = 0 → s.opn < 2 ∨ ∃ k m a, s.opn = 2 ^ k * m + 1 ∧ m % 2 = 1 ∧
        2 ≤ a ∧ a + 2 ≤ s.opn ∧ MRRound s.opn k m a = .composite) ∧
      (Nat.Prime s.opn → t.res = 1)) ∧
    t.opa = s.opa ∧ t.opb = s.opb ∧ t.opn = s.opn ∧ t.lastop = s.lastop

/-- R356: from every state of the invariant, a running command completes when the engine is given turns. -/
def Obligations.EveryRunningCommandCompletes : Prop :=
  ∀ s : State, s.Inv → s.state = .busy →
    ∃ n t, engineRun n s = .next t ∧ t.state = .done ∧
      t.opa = s.opa ∧ t.opb = s.opb ∧ t.opn = s.opn ∧ t.lastop = s.lastop ∧ t.herr = s.herr ∧
      t.cause = s.cause ∧ t.schedule = s.schedule ∧ t.seen = s.seen

/-- R44, R341 and R354: the host and the engine draw from one generator. A draw of the host's takes the
next answer, below its bound, and is on record; Reset and port transactions leave the generator as it
is. That the generator is held in `answers` and `requests` is the model's choice (log 2). -/
def Obligations.GeneratorIsSharedAndNotReset : Prop :=
  (∀ (s : State) (b : Nat) (rest : List Event), s.schedule = .hostDraw b :: rest → b ≠ 0 →
    nextAnswer b s < b ∧
    step s = .next { s with
      schedule := rest, seen := .draw b (nextAnswer b s) :: s.seen, answers := s.answers.tail,
      requests := b :: s.requests } ∧
    ∀ u, u < b → ∀ more, step { s with answers := u :: more } = .next { s with
      schedule := rest, seen := .draw b u :: s.seen, answers := more,
      requests := b :: s.requests }) ∧
  (∀ s t : State, step s = .next t → t.requests ≠ s.requests ∨ t.answers ≠ s.answers →
    (∃ b rest, s.schedule = .hostDraw b :: rest) ∨
    (s.state = .busy ∧ s.phase = .sRound ∧
      (s.schedule = [] ∨ ∃ rest, s.schedule = .engine :: rest) ∧
      t.requests = (s.opn - 3) :: s.requests ∧ t.answers = s.answers.tail))

/-! ### The host's side -/

/-- R92: each pseudo-instruction, issued to an engine in IDLE or DONE, ends with the result of the source
function in the host's hands, whatever the registers held before; for ISPRIME the verdict of R161 on the
answers the generator gives, whose numbering is the model's choice (log 2). -/
def Obligations.PseudoInstructionsReturnTheirResults : Prop :=
  ∀ s : State, accepting s = true →
    (∀ a b, ∃ turns t, callEngine turns (gcdScript a b) s = .ok ((false, Nat.gcd a b), t) ∧
      t.state = .done ∧ t.opa = a ∧ t.opb = b ∧ t.opn = s.opn) ∧
    (∀ a n, n ≠ 0 → Nat.gcd a n = 1 →
      ∃ turns o t, callEngine turns (modinvScript a n) s = .ok ((false, o), t) ∧
        o < n ∧ (n : Int) ∣ (a : Int) * o - 1) ∧
    (∀ a n, n ≠ 0 → Nat.gcd a n ≠ 1 →
      ∃ turns t, callEngine turns (modinvScript a n) s = .ok ((true, 0), t)) ∧
    (∀ a d n, n ≠ 0 →
      ∃ turns t, callEngine turns (powmodScript a d n) s = .ok ((false, powmodResult a d n), t)) ∧
    (∀ n iters k m, (4 ≤ n → n = 2 ^ k * m + 1 ∧ m % 2 = 1) →
      ∃ turns o t, callEngine turns (isprimeScript n iters) s = .ok ((false, o), t) ∧
        (n < 2 → o = 0) ∧ (n = 2 ∨ n = 3 → o = 1) ∧
        (4 ≤ n →
          (o = 1 ∧ ∀ x, x < iters → MRRound n k m (s.answerAt (n - 3) x + 2) = .pass) ∨
          (o = 0 ∧ ∃ e, e < iters ∧
            (∀ x, x < e → MRRound n k m (s.answerAt (n - 3) x + 2) = .pass) ∧
            MRRound n k m (s.answerAt (n - 3) e + 2) = .composite)) ∧
        (Nat.Prime n → o = 1))

/-- R215 to R217, R222, R223 and the source's round-trip property (spec/95_test_vectors.md T1), one block
through the engine: for distinct primes p, q with n = p²·q invertible modulo lcm(p − 1, q − 1), the private
key is made, and every m < pq that is encrypted and then decrypted comes back. -/
def Obligations.EncryptedBlockDecryptsToItself : Prop :=
  ∀ (s : State) (p q m : Nat), accepting s = true → Nat.Prime p → Nat.Prime q → p ≠ q →
    Nat.gcd (p * p * q) (Nat.lcm (p - 1) (q - 1)) = 1 → m < p * q →
    ∃ turns d s₁ c s₂ s₃,
      makePrivateKey turns p q s = .ok ((d, p * q), s₁) ∧
      encryptBlock turns m (p * p * q) s₁ = .ok (c, s₂) ∧
      decryptBlock turns c d (p * q) s₂ = .ok (m, s₃)

/-- R202, R226, R228: the sentinel makes the mapping of blocks to integers reversible, leading zero bytes
and the empty block included. -/
def Obligations.BlockMappingIsReversible : Prop :=
  ∀ bytes : List Byte, integerToBlock (blockToInteger bytes) = bytes

/-- R226, R227 and the stream scenarios of R255: the payloads of a plaintext are the plaintext again, every
one but the last is full, and the last is short; so the empty plaintext has one payload, and one of exactly
`size` bytes has two. -/
def Obligations.PayloadsAreFullButTheLastAndLoseNothing : Prop :=
  ∀ (size : Nat) (bytes : List Byte), 1 ≤ size →
    ∃ full last, payloads size (bytes.length + 1) bytes = full ++ [last] ∧
      (full ++ [last]).flatten = bytes ∧ (∀ x ∈ full, x.length = size) ∧ last.length < size ∧
      full.length = bytes.length / size

/-- The round-trip property of R255 (spec/95_test_vectors.md T1), whole streams through the engine: for
distinct primes p, q, n = p²·q large enough to carry a payload byte, and d an inverse of n modulo
lcm(p − 1, q − 1), every plaintext that is encrypted and then decrypted comes back, with no failure, and
the ciphertext has one line for each payload. -/
def Obligations.EncryptedStreamDecryptsToItself : Prop :=
  ∀ (s : State) (p q d : Nat) (bytes : List Byte), accepting s = true →
    Nat.Prime p → Nat.Prime q → p ≠ q →
    (Nat.lcm (p - 1) (q - 1) : Int) ∣ ((p * p * q : Nat) : Int) * d - 1 →
    2 ≤ encryptBlockLength (p * p * q) →
    ∃ turns lines s₁ s₂,
      encryptStream turns (.ofList bytes) (p * p * q) .reliable s = ⟨lines, .ok s₁⟩ ∧
      lines.length = bytes.length / (encryptBlockLength (p * p * q) - 1) + 1 ∧
      decryptStream turns (.ofList lines) d (p * q) .reliable s₁ = ⟨bytes, .ok s₂⟩

/-- R245(e) and R309 for a ciphertext line: exactly the lines that are no hexadecimal, or too long for a
block, are malformed, and they fail before the engine is used: the answer is the same with no turn to take.
That too long means more than 2k + 3 bytes is the model's deduction (log 18). -/
def Obligations.MalformedLinesFailBeforeTheEngineIsUsed : Prop :=
  (∀ (turns k : Nat) (line : List Char) (s : State),
    decryptLine turns k line s = .error .malformedLine ↔
      decryptLine 0 k line s = .error .malformedLine) ∧
  (∀ (turns k : Nat) (line : List Char) (s : State),
    decryptLine turns k line s = .error .malformedLine ↔
      (parseHex line = none ∨
        ∃ c, parseHex line = some c ∧ ciphertextSizeFits k c = false)) ∧
  (∀ p q : Nat, 1 ≤ p → 2 ≤ q → ∀ c, c < p * p * q →
    ciphertextSizeFits (decryptBlockLength (p * q)) c = true)

/-- R245(d) and R245(e): what decryption, encryption or the writing of a key file has emitted stays as it is
when a later line is malformed, the input fails or the output fails; a key file that cannot be read is a
failure of its own. That a malformed line ends the operation (log 13), that a
failed read yields nothing, and that an output takes whole writes (log 17) are the model's choices. -/
def Obligations.StreamFailuresKeepWhatWasEmitted : Prop :=
  (∀ turns d pq s lines bytes s₁,
    decryptStream turns (.ofList lines) d pq .reliable s = ⟨bytes, .ok s₁⟩ →
    decryptStream turns ⟨lines, true⟩ d pq .reliable s = ⟨bytes, .error .ioFailure⟩ ∧
    ∀ line more fails, decryptLine turns (decryptBlockLength pq) line s₁ = .error .malformedLine →
      decryptStream turns ⟨lines ++ line :: more, fails⟩ d pq .reliable s =
        ⟨bytes, .error .malformedLine⟩) ∧
  (∀ turns d pq s lines bytes s₁ w,
    decryptStream turns (.ofList lines) d pq .reliable s = ⟨bytes, .ok s₁⟩ →
    (lines.length ≤ w →
      decryptStream turns (.ofList lines) d pq ⟨some w⟩ s = ⟨bytes, .ok s₁⟩) ∧
    (w < lines.length → ∃ head s₂, head <+: bytes ∧
      decryptStream turns (.ofList (lines.take w)) d pq .reliable s = ⟨head, .ok s₂⟩ ∧
      decryptStream turns (.ofList lines) d pq ⟨some w⟩ s = ⟨head, .error .ioFailure⟩)) ∧
  (∀ turns n s bytes lines s₁,
    encryptStream turns (.ofList bytes) n .reliable s = ⟨lines, .ok s₁⟩ →
    encryptStream turns ⟨bytes, true⟩ n .reliable s = ⟨lines.dropLast, .error .ioFailure⟩ ∧
    ∀ w, encryptStream turns (.ofList bytes) n ⟨some w⟩ s =
      if lines.length ≤ w then ⟨lines, .ok s₁⟩ else ⟨lines.take w, .error .ioFailure⟩) ∧
  (∀ lines s w,
    writeKeyFile lines .reliable s = ⟨lines, .ok s⟩ ∧
    writeKeyFile lines ⟨some w⟩ s =
      if lines.length ≤ w then ⟨lines, .ok s⟩ else ⟨lines.take w, .error .ioFailure⟩) ∧
  (∀ lines, readPublicKey ⟨lines, true⟩ = .error .ioFailure ∧
    readPrivateKey ⟨lines, true⟩ = .error .ioFailure)

/-- R240, R241: hexadecimal lines and key files read back as what was written. That a reader accepts a key
field of 0 is the model's choice (log 19), and so is what counts as white space (log 10). -/
def Obligations.HexadecimalTextReadsBack : Prop :=
  (∀ x : Nat, parseHex (toHex x) = some x) ∧
  (∀ (n : Nat) (owner : List Char), owner.any Char.isWhitespace = false →
    readPublicKey (.ofList (publicKeyFile n owner)) = .ok (n, owner)) ∧
  (∀ pq d : Nat, readPrivateKey (.ofList (privateKeyFile pq d)) = .ok (pq, d))

/-- A consequence of R205 (the reading spec/90_conflicts.md C5 makes binding), R210 and R212 that the spec
does not draw: factors of exactly the drawn bit counts never meet condition (b) of R212, so key
generation with them rejects every draw (log 10). -/
def Obligations.ExactBitCountsNeverMeetTheBitBudget : Prop :=
  ∀ nbits pBits qBits p q : Nat, 1 ≤ nbits → 2 * pBits + qBits ≤ nbits →
    p < 2 ^ pBits → q < 2 ^ qBits → acceptPrimes nbits p q = false
end

