-- ==== Sys2Proof/Laws/Decode.lean ====
section
/-! SUPPORT. The decoder and the encoder, function by function. -/

namespace Sys2Proof

@[simp] theorem opcode_gcd : opcode .gcd = 0x01#8 := rfl
@[simp] theorem opcode_modinv : opcode .modinv = 0x02#8 := rfl
@[simp] theorem opcode_powmod : opcode .powmod = 0x03#8 := rfl
@[simp] theorem opcode_isprime : opcode .isprime = 0x04#8 := rfl

theorem decodeWord_one : decodeWord 1 = .ok .gcd := by decide
theorem decodeWord_two : decodeWord 2 = .ok .modinv := by decide
theorem decodeWord_three : decodeWord 3 = .ok .powmod := by decide
theorem decodeWord_four : decodeWord 4 = .ok .isprime := by decide

/-- No two rows of the opcode map match the same byte. -/
theorem opcodeTable_pairwise_disjoint :
    opcodeTable.Pairwise fun a b => a.mask = b.mask ∧ a.pattern ≠ b.pattern := by decide

/-- A word with a bit above bit 7 is rejected under its own name (R86). -/
theorem decodeWord_high {w : Nat} (h : 256 ≤ w) : decodeWord w = .error .highBitsSet := by
  simp [decodeWord, Nat.not_lt.mpr h]

/-- The bytes in no row of the map are rejected (R88). -/
theorem decodeWord_unknown : ∀ w < 256, w ∉ [1, 2, 3, 4] → decodeWord w = .error .unknownOpcode := by
  decide +kernel

/-- Every word but 1 to 4 is rejected, under some name (R88). -/
theorem decodeWord_illegal {w : Nat} (h : w ∉ [1, 2, 3, 4]) : ∃ e, decodeWord w = .error e := by
  rcases Nat.lt_or_ge w 256 with hw | hw
  · exact ⟨_, decodeWord_unknown w hw h⟩
  · exact ⟨_, decodeWord_high hw⟩

/-- What a decoded word can be. -/
theorem decodeWord_cases {w : Nat} {i : Instr} (h : decodeWord w = .ok i) :
    w = 1 ∧ i = .gcd ∨ w = 2 ∧ i = .modinv ∨ w = 3 ∧ i = .powmod ∨ w = 4 ∧ i = .isprime := by
  by_cases hw : w ∈ [1, 2, 3, 4]
  · simp only [List.mem_cons, List.not_mem_nil, or_false] at hw
    rcases hw with rfl | rfl | rfl | rfl
    · rw [decodeWord_one] at h; cases h; simp
    · rw [decodeWord_two] at h; cases h; simp
    · rw [decodeWord_three] at h; cases h; simp
    · rw [decodeWord_four] at h; cases h; simp
  · obtain ⟨e, he⟩ := decodeWord_illegal hw
    rw [he] at h; cases h

end Sys2Proof
end

