-- ==== Sys2Proof/Laws/Host.lean ====
section
/-! SUPPORT. What the shared operations on the host's streams can do. -/

namespace Sys2Proof.Machine

variable {α β : Type} {use : α → State → Except HostFailure (β × State)} {s s' : State}

@[simp] theorem InStream.items_ofList (xs : List α) : (InStream.ofList xs).items = xs := rfl
@[simp] theorem InStream.fails_ofList (xs : List α) : (InStream.ofList xs).fails = false := rfl
@[simp] theorem InStream.readAll_ofList (xs : List α) : (InStream.ofList xs).readAll = .ok xs := rfl
@[simp] theorem OutStream.write_reliable : OutStream.reliable.write = some .reliable := rfl

/-- The end of the items: the end of the stream, or the read that fails. -/
@[simp] theorem transform_nil (fails : Bool) (out : OutStream) (s : State) :
    transform use fails [] out s = ⟨[], if fails then .error .ioFailure else .ok s⟩ := rfl

/-- An item that fails ends the operation. -/
theorem transform_failed {x : α} {e : HostFailure} (h : use x s = .error e) (fails : Bool)
    (more : List α) (out : OutStream) :
    transform use fails (x :: more) out s = ⟨[], .error e⟩ := by simp [transform, h]

/-- A write that fails ends the operation. -/
theorem transform_unwritten {x : α} {y : β} {out : OutStream} (h : use x s = .ok (y, s'))
    (hw : out.write = none) (fails : Bool) (more : List α) :
    transform use fails (x :: more) out s = ⟨[], .error .ioFailure⟩ := by simp [transform, h, hw]

/-- An item that is used and written comes in front of what the rest emits. -/
theorem transform_written {x : α} {y : β} {out out' : OutStream} (h : use x s = .ok (y, s'))
    (hw : out.write = some out') (fails : Bool) (more : List α) :
    transform use fails (x :: more) out s =
      ⟨y :: (transform use fails more out' s').out, (transform use fails more out' s').ending⟩ := by
  simp [transform, h, hw]

end Sys2Proof.Machine
end

