-- ==== Sys2Proof/Laws/State.lean ====
section
/-! SUPPORT. One lemma per field of State per named update, so that no proof unfolds a record update. -/

namespace Sys2Proof.Machine

variable (s : State)

/-! `clearOutcome` -/

@[simp] theorem clearOutcome_opa : (clearOutcome s).opa = s.opa := rfl
@[simp] theorem clearOutcome_opb : (clearOutcome s).opb = s.opb := rfl
@[simp] theorem clearOutcome_opn : (clearOutcome s).opn = s.opn := rfl
@[simp] theorem clearOutcome_res : (clearOutcome s).res = 0 := rfl
@[simp] theorem clearOutcome_lastop : (clearOutcome s).lastop = s.lastop := rfl
@[simp] theorem clearOutcome_state : (clearOutcome s).state = s.state := rfl
@[simp] theorem clearOutcome_noinv : (clearOutcome s).noinv = false := rfl
@[simp] theorem clearOutcome_herr : (clearOutcome s).herr = s.herr := rfl
@[simp] theorem clearOutcome_cause : (clearOutcome s).cause = s.cause := rfl
@[simp] theorem clearOutcome_phase : (clearOutcome s).phase = s.phase := rfl
@[simp] theorem clearOutcome_work : (clearOutcome s).work = s.work := rfl
@[simp] theorem clearOutcome_schedule : (clearOutcome s).schedule = s.schedule := rfl
@[simp] theorem clearOutcome_seen : (clearOutcome s).seen = s.seen := rfl
@[simp] theorem clearOutcome_answers : (clearOutcome s).answers = s.answers := rfl
@[simp] theorem clearOutcome_requests : (clearOutcome s).requests = s.requests := rfl

/-! `raiseNoinv` -/

@[simp] theorem raiseNoinv_opa : (raiseNoinv s).opa = s.opa := rfl
@[simp] theorem raiseNoinv_opb : (raiseNoinv s).opb = s.opb := rfl
@[simp] theorem raiseNoinv_opn : (raiseNoinv s).opn = s.opn := rfl
@[simp] theorem raiseNoinv_res : (raiseNoinv s).res = s.res := rfl
@[simp] theorem raiseNoinv_lastop : (raiseNoinv s).lastop = s.lastop := rfl
@[simp] theorem raiseNoinv_state : (raiseNoinv s).state = s.state := rfl
@[simp] theorem raiseNoinv_noinv : (raiseNoinv s).noinv = true := rfl
@[simp] theorem raiseNoinv_herr : (raiseNoinv s).herr = s.herr := rfl
@[simp] theorem raiseNoinv_cause : (raiseNoinv s).cause = s.cause := rfl
@[simp] theorem raiseNoinv_phase : (raiseNoinv s).phase = s.phase := rfl
@[simp] theorem raiseNoinv_work : (raiseNoinv s).work = s.work := rfl
@[simp] theorem raiseNoinv_schedule : (raiseNoinv s).schedule = s.schedule := rfl
@[simp] theorem raiseNoinv_seen : (raiseNoinv s).seen = s.seen := rfl
@[simp] theorem raiseNoinv_answers : (raiseNoinv s).answers = s.answers := rfl
@[simp] theorem raiseNoinv_requests : (raiseNoinv s).requests = s.requests := rfl

/-! `dropWrite` -/

@[simp] theorem dropWrite_opa : (dropWrite s).opa = s.opa := rfl
@[simp] theorem dropWrite_opb : (dropWrite s).opb = s.opb := rfl
@[simp] theorem dropWrite_opn : (dropWrite s).opn = s.opn := rfl
@[simp] theorem dropWrite_res : (dropWrite s).res = s.res := rfl
@[simp] theorem dropWrite_lastop : (dropWrite s).lastop = s.lastop := rfl
@[simp] theorem dropWrite_state : (dropWrite s).state = s.state := rfl
@[simp] theorem dropWrite_noinv : (dropWrite s).noinv = s.noinv := rfl
@[simp] theorem dropWrite_herr : (dropWrite s).herr = true := rfl
@[simp] theorem dropWrite_cause : (dropWrite s).cause = s.cause := rfl
@[simp] theorem dropWrite_phase : (dropWrite s).phase = s.phase := rfl
@[simp] theorem dropWrite_work : (dropWrite s).work = s.work := rfl
@[simp] theorem dropWrite_schedule : (dropWrite s).schedule = s.schedule := rfl
@[simp] theorem dropWrite_seen : (dropWrite s).seen = s.seen := rfl
@[simp] theorem dropWrite_answers : (dropWrite s).answers = s.answers := rfl
@[simp] theorem dropWrite_requests : (dropWrite s).requests = s.requests := rfl

/-! `complete` -/

@[simp] theorem complete_opa (v : Nat) : (complete v s).opa = s.opa := rfl
@[simp] theorem complete_opb (v : Nat) : (complete v s).opb = s.opb := rfl
@[simp] theorem complete_opn (v : Nat) : (complete v s).opn = s.opn := rfl
@[simp] theorem complete_res (v : Nat) : (complete v s).res = v := rfl
@[simp] theorem complete_lastop (v : Nat) : (complete v s).lastop = s.lastop := rfl
@[simp] theorem complete_state (v : Nat) : (complete v s).state = .done := rfl
@[simp] theorem complete_noinv (v : Nat) : (complete v s).noinv = s.noinv := rfl
@[simp] theorem complete_herr (v : Nat) : (complete v s).herr = s.herr := rfl
@[simp] theorem complete_cause (v : Nat) : (complete v s).cause = s.cause := rfl
@[simp] theorem complete_phase (v : Nat) : (complete v s).phase = s.phase := rfl
@[simp] theorem complete_work (v : Nat) : (complete v s).work = s.work := rfl
@[simp] theorem complete_schedule (v : Nat) : (complete v s).schedule = s.schedule := rfl
@[simp] theorem complete_seen (v : Nat) : (complete v s).seen = s.seen := rfl
@[simp] theorem complete_answers (v : Nat) : (complete v s).answers = s.answers := rfl
@[simp] theorem complete_requests (v : Nat) : (complete v s).requests = s.requests := rfl

/-! `raiseFault` -/

@[simp] theorem raiseFault_opa (c : Cause) : (raiseFault c s).opa = s.opa := rfl
@[simp] theorem raiseFault_opb (c : Cause) : (raiseFault c s).opb = s.opb := rfl
@[simp] theorem raiseFault_opn (c : Cause) : (raiseFault c s).opn = s.opn := rfl
@[simp] theorem raiseFault_res (c : Cause) : (raiseFault c s).res = s.res := rfl
@[simp] theorem raiseFault_lastop (c : Cause) : (raiseFault c s).lastop = s.lastop := rfl
@[simp] theorem raiseFault_state (c : Cause) : (raiseFault c s).state = .fault := rfl
@[simp] theorem raiseFault_noinv (c : Cause) : (raiseFault c s).noinv = s.noinv := rfl
@[simp] theorem raiseFault_herr (c : Cause) : (raiseFault c s).herr = s.herr := rfl
@[simp] theorem raiseFault_cause (c : Cause) : (raiseFault c s).cause = c := rfl
@[simp] theorem raiseFault_phase (c : Cause) : (raiseFault c s).phase = s.phase := rfl
@[simp] theorem raiseFault_work (c : Cause) : (raiseFault c s).work = s.work := rfl
@[simp] theorem raiseFault_schedule (c : Cause) : (raiseFault c s).schedule = s.schedule := rfl
@[simp] theorem raiseFault_seen (c : Cause) : (raiseFault c s).seen = s.seen := rfl
@[simp] theorem raiseFault_answers (c : Cause) : (raiseFault c s).answers = s.answers := rfl
@[simp] theorem raiseFault_requests (c : Cause) : (raiseFault c s).requests = s.requests := rfl

/-! `afterDraw` -/

@[simp] theorem afterDraw_opa (b : Nat) : (afterDraw b s).opa = s.opa := rfl
@[simp] theorem afterDraw_opb (b : Nat) : (afterDraw b s).opb = s.opb := rfl
@[simp] theorem afterDraw_opn (b : Nat) : (afterDraw b s).opn = s.opn := rfl
@[simp] theorem afterDraw_res (b : Nat) : (afterDraw b s).res = s.res := rfl
@[simp] theorem afterDraw_lastop (b : Nat) : (afterDraw b s).lastop = s.lastop := rfl
@[simp] theorem afterDraw_state (b : Nat) : (afterDraw b s).state = s.state := rfl
@[simp] theorem afterDraw_noinv (b : Nat) : (afterDraw b s).noinv = s.noinv := rfl
@[simp] theorem afterDraw_herr (b : Nat) : (afterDraw b s).herr = s.herr := rfl
@[simp] theorem afterDraw_cause (b : Nat) : (afterDraw b s).cause = s.cause := rfl
@[simp] theorem afterDraw_phase (b : Nat) : (afterDraw b s).phase = s.phase := rfl
@[simp] theorem afterDraw_work (b : Nat) : (afterDraw b s).work = s.work := rfl
@[simp] theorem afterDraw_schedule (b : Nat) : (afterDraw b s).schedule = s.schedule := rfl
@[simp] theorem afterDraw_seen (b : Nat) : (afterDraw b s).seen = s.seen := rfl
@[simp] theorem afterDraw_answers (b : Nat) : (afterDraw b s).answers = s.answers.tail := rfl
@[simp] theorem afterDraw_requests (b : Nat) : (afterDraw b s).requests = b :: s.requests := rfl

/-! `startCommand` -/

@[simp] theorem startCommand_opa (i : Instr) : (startCommand i s).opa = s.opa := rfl
@[simp] theorem startCommand_opb (i : Instr) : (startCommand i s).opb = s.opb := rfl
@[simp] theorem startCommand_opn (i : Instr) : (startCommand i s).opn = s.opn := rfl
@[simp] theorem startCommand_res (i : Instr) : (startCommand i s).res = s.res := rfl
@[simp] theorem startCommand_lastop (i : Instr) : (startCommand i s).lastop = opcode i := rfl
@[simp] theorem startCommand_state (i : Instr) : (startCommand i s).state = .busy := rfl
@[simp] theorem startCommand_noinv (i : Instr) : (startCommand i s).noinv = s.noinv := rfl
@[simp] theorem startCommand_herr (i : Instr) : (startCommand i s).herr = s.herr := rfl
@[simp] theorem startCommand_cause (i : Instr) : (startCommand i s).cause = s.cause := rfl
@[simp] theorem startCommand_phase (i : Instr) : (startCommand i s).phase = s.phase := rfl
@[simp] theorem startCommand_work (i : Instr) : (startCommand i s).work = s.work := rfl
@[simp] theorem startCommand_schedule (i : Instr) : (startCommand i s).schedule = s.schedule := rfl
@[simp] theorem startCommand_seen (i : Instr) : (startCommand i s).seen = s.seen := rfl
@[simp] theorem startCommand_answers (i : Instr) : (startCommand i s).answers = s.answers := rfl
@[simp] theorem startCommand_requests (i : Instr) : (startCommand i s).requests = s.requests := rfl

/-! `observe` -/

@[simp] theorem observe_opa (o : Observation) : (observe o s).opa = s.opa := rfl
@[simp] theorem observe_opb (o : Observation) : (observe o s).opb = s.opb := rfl
@[simp] theorem observe_opn (o : Observation) : (observe o s).opn = s.opn := rfl
@[simp] theorem observe_res (o : Observation) : (observe o s).res = s.res := rfl
@[simp] theorem observe_lastop (o : Observation) : (observe o s).lastop = s.lastop := rfl
@[simp] theorem observe_state (o : Observation) : (observe o s).state = s.state := rfl
@[simp] theorem observe_noinv (o : Observation) : (observe o s).noinv = s.noinv := rfl
@[simp] theorem observe_herr (o : Observation) : (observe o s).herr = s.herr := rfl
@[simp] theorem observe_cause (o : Observation) : (observe o s).cause = s.cause := rfl
@[simp] theorem observe_phase (o : Observation) : (observe o s).phase = s.phase := rfl
@[simp] theorem observe_work (o : Observation) : (observe o s).work = s.work := rfl
@[simp] theorem observe_schedule (o : Observation) : (observe o s).schedule = s.schedule := rfl
@[simp] theorem observe_seen (o : Observation) : (observe o s).seen = o :: s.seen := rfl
@[simp] theorem observe_answers (o : Observation) : (observe o s).answers = s.answers := rfl
@[simp] theorem observe_requests (o : Observation) : (observe o s).requests = s.requests := rfl

/-! `acceptGcd` -/

@[simp] theorem acceptGcd_opa : (acceptGcd s).opa = s.opa := rfl
@[simp] theorem acceptGcd_opb : (acceptGcd s).opb = s.opb := rfl
@[simp] theorem acceptGcd_opn : (acceptGcd s).opn = s.opn := rfl
@[simp] theorem acceptGcd_res : (acceptGcd s).res = s.res := rfl
@[simp] theorem acceptGcd_lastop : (acceptGcd s).lastop = s.lastop := rfl
@[simp] theorem acceptGcd_state : (acceptGcd s).state = s.state := rfl
@[simp] theorem acceptGcd_noinv : (acceptGcd s).noinv = s.noinv := rfl
@[simp] theorem acceptGcd_herr : (acceptGcd s).herr = s.herr := rfl
@[simp] theorem acceptGcd_cause : (acceptGcd s).cause = s.cause := rfl
@[simp] theorem acceptGcd_phase : (acceptGcd s).phase = .gLoop := rfl
@[simp] theorem acceptGcd_work : (acceptGcd s).work = { s.work with ga := s.opa, gb := s.opb } := rfl
@[simp] theorem acceptGcd_schedule : (acceptGcd s).schedule = s.schedule := rfl
@[simp] theorem acceptGcd_seen : (acceptGcd s).seen = s.seen := rfl
@[simp] theorem acceptGcd_answers : (acceptGcd s).answers = s.answers := rfl
@[simp] theorem acceptGcd_requests : (acceptGcd s).requests = s.requests := rfl

/-! `acceptModinv` -/

@[simp] theorem acceptModinv_opa : (acceptModinv s).opa = s.opa := rfl
@[simp] theorem acceptModinv_opb : (acceptModinv s).opb = s.opb := rfl
@[simp] theorem acceptModinv_opn : (acceptModinv s).opn = s.opn := rfl
@[simp] theorem acceptModinv_res : (acceptModinv s).res = s.res := rfl
@[simp] theorem acceptModinv_lastop : (acceptModinv s).lastop = s.lastop := rfl
@[simp] theorem acceptModinv_state : (acceptModinv s).state = s.state := rfl
@[simp] theorem acceptModinv_noinv : (acceptModinv s).noinv = s.noinv := rfl
@[simp] theorem acceptModinv_herr : (acceptModinv s).herr = s.herr := rfl
@[simp] theorem acceptModinv_cause : (acceptModinv s).cause = s.cause := rfl
@[simp] theorem acceptModinv_phase : (acceptModinv s).phase = .iLoop := rfl
@[simp] theorem acceptModinv_work : (acceptModinv s).work = { s.work with r := s.opn, r' := s.opa, s := 1, s' := 0, t := 0, t' := 1 } := rfl
@[simp] theorem acceptModinv_schedule : (acceptModinv s).schedule = s.schedule := rfl
@[simp] theorem acceptModinv_seen : (acceptModinv s).seen = s.seen := rfl
@[simp] theorem acceptModinv_answers : (acceptModinv s).answers = s.answers := rfl
@[simp] theorem acceptModinv_requests : (acceptModinv s).requests = s.requests := rfl

/-! `acceptPowmod` -/

@[simp] theorem acceptPowmod_opa : (acceptPowmod s).opa = s.opa := rfl
@[simp] theorem acceptPowmod_opb : (acceptPowmod s).opb = s.opb := rfl
@[simp] theorem acceptPowmod_opn : (acceptPowmod s).opn = s.opn := rfl
@[simp] theorem acceptPowmod_res : (acceptPowmod s).res = s.res := rfl
@[simp] theorem acceptPowmod_lastop : (acceptPowmod s).lastop = s.lastop := rfl
@[simp] theorem acceptPowmod_state : (acceptPowmod s).state = s.state := rfl
@[simp] theorem acceptPowmod_noinv : (acceptPowmod s).noinv = s.noinv := rfl
@[simp] theorem acceptPowmod_herr : (acceptPowmod s).herr = s.herr := rfl
@[simp] theorem acceptPowmod_cause : (acceptPowmod s).cause = s.cause := rfl
@[simp] theorem acceptPowmod_phase : (acceptPowmod s).phase = .pLoop := rfl
@[simp] theorem acceptPowmod_work : (acceptPowmod s).work = { s.work with v := 1, p := s.opa, i := s.opb } := rfl
@[simp] theorem acceptPowmod_schedule : (acceptPowmod s).schedule = s.schedule := rfl
@[simp] theorem acceptPowmod_seen : (acceptPowmod s).seen = s.seen := rfl
@[simp] theorem acceptPowmod_answers : (acceptPowmod s).answers = s.answers := rfl
@[simp] theorem acceptPowmod_requests : (acceptPowmod s).requests = s.requests := rfl

/-! `acceptIsprime` -/

@[simp] theorem acceptIsprime_opa : (acceptIsprime s).opa = s.opa := rfl
@[simp] theorem acceptIsprime_opb : (acceptIsprime s).opb = s.opb := rfl
@[simp] theorem acceptIsprime_opn : (acceptIsprime s).opn = s.opn := rfl
@[simp] theorem acceptIsprime_res : (acceptIsprime s).res = s.res := rfl
@[simp] theorem acceptIsprime_lastop : (acceptIsprime s).lastop = s.lastop := rfl
@[simp] theorem acceptIsprime_state : (acceptIsprime s).state = s.state := rfl
@[simp] theorem acceptIsprime_noinv : (acceptIsprime s).noinv = s.noinv := rfl
@[simp] theorem acceptIsprime_herr : (acceptIsprime s).herr = s.herr := rfl
@[simp] theorem acceptIsprime_cause : (acceptIsprime s).cause = s.cause := rfl
@[simp] theorem acceptIsprime_phase : (acceptIsprime s).phase = .sPre := rfl
@[simp] theorem acceptIsprime_work : (acceptIsprime s).work = s.work := rfl
@[simp] theorem acceptIsprime_schedule : (acceptIsprime s).schedule = s.schedule := rfl
@[simp] theorem acceptIsprime_seen : (acceptIsprime s).seen = s.seen := rfl
@[simp] theorem acceptIsprime_answers : (acceptIsprime s).answers = s.answers := rfl
@[simp] theorem acceptIsprime_requests : (acceptIsprime s).requests = s.requests := rfl

/-! `resetEngine` -/

@[simp] theorem resetEngine_opa : (resetEngine s).opa = 0 := rfl
@[simp] theorem resetEngine_opb : (resetEngine s).opb = 0 := rfl
@[simp] theorem resetEngine_opn : (resetEngine s).opn = 0 := rfl
@[simp] theorem resetEngine_res : (resetEngine s).res = 0 := rfl
@[simp] theorem resetEngine_lastop : (resetEngine s).lastop = 0#8 := rfl
@[simp] theorem resetEngine_state : (resetEngine s).state = .idle := rfl
@[simp] theorem resetEngine_noinv : (resetEngine s).noinv = false := rfl
@[simp] theorem resetEngine_herr : (resetEngine s).herr = false := rfl
@[simp] theorem resetEngine_cause : (resetEngine s).cause = .none := rfl
@[simp] theorem resetEngine_phase : (resetEngine s).phase = .gLoop := rfl
@[simp] theorem resetEngine_work : (resetEngine s).work = Work.reset := rfl
@[simp] theorem resetEngine_schedule : (resetEngine s).schedule = s.schedule := rfl
@[simp] theorem resetEngine_seen : (resetEngine s).seen = s.seen := rfl
@[simp] theorem resetEngine_answers : (resetEngine s).answers = s.answers := rfl
@[simp] theorem resetEngine_requests : (resetEngine s).requests = s.requests := rfl
@[simp] theorem reset_opa : State.reset.opa = 0 := rfl
@[simp] theorem reset_opb : State.reset.opb = 0 := rfl
@[simp] theorem reset_opn : State.reset.opn = 0 := rfl
@[simp] theorem reset_res : State.reset.res = 0 := rfl
@[simp] theorem reset_lastop : State.reset.lastop = 0#8 := rfl
@[simp] theorem reset_state : State.reset.state = .idle := rfl
@[simp] theorem reset_noinv : State.reset.noinv = false := rfl
@[simp] theorem reset_herr : State.reset.herr = false := rfl
@[simp] theorem reset_cause : State.reset.cause = .none := rfl
@[simp] theorem reset_phase : State.reset.phase = .gLoop := rfl
@[simp] theorem reset_work : State.reset.work = Work.reset := rfl
@[simp] theorem reset_schedule : State.reset.schedule = [] := rfl
@[simp] theorem reset_seen : State.reset.seen = [] := rfl
@[simp] theorem reset_answers : State.reset.answers = [] := rfl
@[simp] theorem reset_requests : State.reset.requests = [] := rfl

/-! `squareMultiply` and `reduceModinv`, on the working registers -/

@[simp] theorem squareMultiply_ga (n : Nat) (w : Work) :
    (squareMultiply n w).ga = w.ga := rfl
@[simp] theorem squareMultiply_gb (n : Nat) (w : Work) :
    (squareMultiply n w).gb = w.gb := rfl
@[simp] theorem squareMultiply_r (n : Nat) (w : Work) :
    (squareMultiply n w).r = w.r := rfl
@[simp] theorem squareMultiply_r_prime (n : Nat) (w : Work) :
    (squareMultiply n w).r' = w.r' := rfl
@[simp] theorem squareMultiply_s (n : Nat) (w : Work) :
    (squareMultiply n w).s = w.s := rfl
@[simp] theorem squareMultiply_s_prime (n : Nat) (w : Work) :
    (squareMultiply n w).s' = w.s' := rfl
@[simp] theorem squareMultiply_t (n : Nat) (w : Work) :
    (squareMultiply n w).t = w.t := rfl
@[simp] theorem squareMultiply_t_prime (n : Nat) (w : Work) :
    (squareMultiply n w).t' = w.t' := rfl
@[simp] theorem squareMultiply_q (n : Nat) (w : Work) :
    (squareMultiply n w).q = w.q := rfl
@[simp] theorem squareMultiply_v (n : Nat) (w : Work) :
    (squareMultiply n w).v = if w.i % 2 = 1 then (w.v * w.p) % n else w.v := rfl
@[simp] theorem squareMultiply_p (n : Nat) (w : Work) :
    (squareMultiply n w).p = (w.p * w.p) % n := rfl
@[simp] theorem squareMultiply_i (n : Nat) (w : Work) :
    (squareMultiply n w).i = w.i / 2 := rfl
@[simp] theorem squareMultiply_k (n : Nat) (w : Work) :
    (squareMultiply n w).k = w.k := rfl
@[simp] theorem squareMultiply_m (n : Nat) (w : Work) :
    (squareMultiply n w).m = w.m := rfl
@[simp] theorem squareMultiply_a (n : Nat) (w : Work) :
    (squareMultiply n w).a = w.a := rfl
@[simp] theorem squareMultiply_y (n : Nat) (w : Work) :
    (squareMultiply n w).y = w.y := rfl
@[simp] theorem squareMultiply_j (n : Nat) (w : Work) :
    (squareMultiply n w).j = w.j := rfl
@[simp] theorem squareMultiply_c (n : Nat) (w : Work) :
    (squareMultiply n w).c = w.c := rfl
@[simp] theorem reduceModinv_ga (w : Work) :
    (reduceModinv w).ga = w.ga := rfl
@[simp] theorem reduceModinv_gb (w : Work) :
    (reduceModinv w).gb = w.gb := rfl
@[simp] theorem reduceModinv_r (w : Work) :
    (reduceModinv w).r = w.r' := rfl
@[simp] theorem reduceModinv_r_prime (w : Work) :
    (reduceModinv w).r' = w.r - w.r / w.r' * w.r' := rfl
@[simp] theorem reduceModinv_s (w : Work) :
    (reduceModinv w).s = w.s' := rfl
@[simp] theorem reduceModinv_s_prime (w : Work) :
    (reduceModinv w).s' = w.s - (w.r / w.r' : Nat) * w.s' := rfl
@[simp] theorem reduceModinv_t (w : Work) :
    (reduceModinv w).t = w.t' := rfl
@[simp] theorem reduceModinv_t_prime (w : Work) :
    (reduceModinv w).t' = w.t - (w.r / w.r' : Nat) * w.t' := rfl
@[simp] theorem reduceModinv_q (w : Work) :
    (reduceModinv w).q = w.r / w.r' := rfl
@[simp] theorem reduceModinv_v (w : Work) :
    (reduceModinv w).v = w.v := rfl
@[simp] theorem reduceModinv_p (w : Work) :
    (reduceModinv w).p = w.p := rfl
@[simp] theorem reduceModinv_i (w : Work) :
    (reduceModinv w).i = w.i := rfl
@[simp] theorem reduceModinv_k (w : Work) :
    (reduceModinv w).k = w.k := rfl
@[simp] theorem reduceModinv_m (w : Work) :
    (reduceModinv w).m = w.m := rfl
@[simp] theorem reduceModinv_a (w : Work) :
    (reduceModinv w).a = w.a := rfl
@[simp] theorem reduceModinv_y (w : Work) :
    (reduceModinv w).y = w.y := rfl
@[simp] theorem reduceModinv_j (w : Work) :
    (reduceModinv w).j = w.j := rfl
@[simp] theorem reduceModinv_c (w : Work) :
    (reduceModinv w).c = w.c := rfl

end Sys2Proof.Machine
end

