-- ==== Sys2Proof/Laws/Ops.lean ====
section
/-! SUPPORT. One lemma for each shared operation that says everything it can do. -/

namespace Sys2Proof.Machine

variable {s t : State}

/-! ### Arithmetic -/

@[simp] theorem bitlen_zero : bitlen 0 = 0 := rfl

/-- Halving takes one bit off. -/
theorem bitlen_half {x : Nat} (h : x ≠ 0) : bitlen x = bitlen (x / 2) + 1 := by
  rcases Nat.lt_or_ge x 2 with hx | hx
  · obtain rfl : x = 1 := by omega
    decide
  · have : x / 2 ≠ 0 := by omega
    rw [bitlen, bitlen, if_neg h, if_neg this, Nat.log2_def x, if_pos hx]

/-- `emod(x, n)` is the value of [0, n) congruent to x. -/
theorem emod_spec (x : Int) {n : Nat} (h : n ≠ 0) : emod x n < n ∧ (n : Int) ∣ x - emod x n := by
  have hn : (n : Int) ≠ 0 := by exact_mod_cast h
  have h0 := Int.emod_nonneg x hn
  have h1 := Int.emod_lt_of_pos x (show (0 : Int) < n by omega)
  refine ⟨by unfold emod; omega, ?_⟩
  rw [emod, Int.toNat_of_nonneg h0]
  exact Int.dvd_self_sub_emod

@[simp] theorem withModulus_pos {n : Nat} (h : n ≠ 0) (o : StepResult) : withModulus n o = o := by
  simp [withModulus, h]

@[simp] theorem withModulus_zero (o : StepResult) : withModulus 0 o = .fault .divByZero := rfl

/-- Modulo n, square-and-multiply keeps v · p^i. -/
theorem squareMultiply_modEq (n : Nat) (w : Work) :
    (squareMultiply n w).v * (squareMultiply n w).p ^ (squareMultiply n w).i ≡ w.v * w.p ^ w.i [MOD n] := by
  have hp : (w.p * w.p % n) ^ (w.i / 2) ≡ w.p ^ (2 * (w.i / 2)) [MOD n] := by
    rw [pow_mul, pow_two]
    exact (Nat.mod_modEq _ _).pow _
  rcases Nat.mod_two_eq_zero_or_one w.i with hi | hi
  · have h2 : 2 * (w.i / 2) = w.i := by omega
    simpa [hi, h2] using (hp.mul_left w.v)
  · have h2 : w.p ^ w.i = w.p * w.p ^ (2 * (w.i / 2)) := by
      rw [← pow_succ']; congr 1; omega
    have := (Nat.mod_modEq (w.v * w.p) n).mul hp
    rw [h2, ← mul_assoc]
    simpa [hi] using this

/-! ### The generator -/

theorem nextAnswer_lt {b : Nat} (h : b ≠ 0) (s : State) : nextAnswer b s < b :=
  Nat.mod_lt _ (Nat.pos_of_ne_zero h)

@[simp] theorem randBelow_pos {b : Nat} (h : b ≠ 0) (s : State) (k : Nat → State → StepResult) :
    randBelow b s k = k (nextAnswer b s) (afterDraw b s) := by simp [randBelow, h]

@[simp] theorem randBelow_zero (s : State) (k : Nat → State → StepResult) :
    randBelow 0 s k = .fault .emptyDraw := rfl

/-! ### Command issue -/

theorem accepting_iff : accepting s = true ↔ s.state = .idle ∨ s.state = .done := by
  unfold accepting; cases s.state <;> simp

theorem not_accepting_iff : accepting s = false ↔ s.state = .busy ∨ s.state = .fault := by
  unfold accepting; cases s.state <;> simp

@[simp] theorem issue_accepting (h : accepting s = true) (f : State → StepResult) :
    issue s f = f (clearOutcome s) := by simp [issue, h]

@[simp] theorem issue_dropped (h : accepting s = false) (f : State → StepResult) :
    issue s f = .next (dropWrite s) := by simp [issue, h]

theorem requireModulus_pos (h : s.opn ≠ 0) (f : State → StepResult) :
    requireModulus s f = f s := by simp [requireModulus, h]

theorem requireModulus_zero (h : s.opn = 0) (f : State → StepResult) :
    requireModulus s f = .next (raiseFault .modZero s) := by simp [requireModulus, h]

/-- Everything an instruction's meaning can do: drop the write, fault with MOD_ZERO, or start. -/
theorem exec_cases (i : Instr) (s : State) :
    accepting s = false ∧ exec i s = .next (dropWrite s) ∨
    accepting s = true ∧ (i = .modinv ∨ i = .powmod) ∧ s.opn = 0 ∧
      exec i s = .next (raiseFault .modZero (clearOutcome s)) ∨
    accepting s = true ∧ i = .gcd ∧ exec i s = .next (acceptGcd (startCommand i (clearOutcome s))) ∨
    accepting s = true ∧ i = .modinv ∧ s.opn ≠ 0 ∧
      exec i s = .next (acceptModinv (startCommand i (clearOutcome s))) ∨
    accepting s = true ∧ i = .powmod ∧ s.opn ≠ 0 ∧
      exec i s = .next (acceptPowmod (startCommand i (clearOutcome s))) ∨
    accepting s = true ∧ i = .isprime ∧
      exec i s = .next (acceptIsprime (startCommand i (clearOutcome s))) := by
  cases ha : accepting s
  · cases i <;> simp [exec, execGcd, execModinv, execPowmod, execIsprime, ha]
  · by_cases hn : s.opn = 0
    · cases i <;>
        simp [exec, execGcd, execModinv, execPowmod, execIsprime, requireModulus, ha, hn]
    · cases i <;>
        simp [exec, execGcd, execModinv, execPowmod, execIsprime, requireModulus, ha, hn]

/-- Everything a write to CMD can do: what a meaning does, or drop or fault with ILLEGAL_CMD. -/
theorem commandWrite_cases (w : Nat) (s : State) :
    (∃ i, decodeWord w = .ok i ∧ w = encodeWord i ∧ commandWrite w s = exec i s) ∨
    w ∉ [1, 2, 3, 4] ∧ accepting s = false ∧ commandWrite w s = .next (dropWrite s) ∨
    w ∉ [1, 2, 3, 4] ∧ accepting s = true ∧
      commandWrite w s = .next (raiseFault .illegalCmd (clearOutcome s)) := by
  by_cases hw : w ∈ [1, 2, 3, 4]
  · left
    simp only [List.mem_cons, List.not_mem_nil, or_false] at hw
    rcases hw with rfl | rfl | rfl | rfl
    · exact ⟨.gcd, decodeWord_one, rfl, rfl⟩
    · exact ⟨.modinv, decodeWord_two, rfl, rfl⟩
    · exact ⟨.powmod, decodeWord_three, rfl, rfl⟩
    · exact ⟨.isprime, decodeWord_four, rfl, rfl⟩
  · right
    obtain ⟨e, he⟩ := decodeWord_illegal hw
    cases ha : accepting s
    · left; simp [hw, commandWrite, he, issueIllegal, ha]
    · right; simp [hw, commandWrite, he, issueIllegal, ha]

/-- A write always has a next state at the normative MAXBITS. -/
theorem portWrite_none (addr : PortAddr) (v : Nat) (s : State) :
    portWrite none addr v s = registerWrite (portRegister addr) v s := rfl

end Sys2Proof.Machine
end

