-- ==== Sys2Proof/Laws/Micro.lean ====
section
/-! SUPPORT. What a micro-step and a turn of the engine can change, and runs of turns. -/

namespace Sys2Proof.Machine

variable {s t u : State}

/-- What no micro-step changes: the operand registers, LASTOP, HERR, CAUSE, and the host's side. -/
structure SameOutside (s t : State) : Prop where
  opa      : t.opa = s.opa
  opb      : t.opb = s.opb
  opn      : t.opn = s.opn
  lastop   : t.lastop = s.lastop
  herr     : t.herr = s.herr
  cause    : t.cause = s.cause
  schedule : t.schedule = s.schedule
  seen     : t.seen = s.seen

theorem SameOutside.refl (s : State) : SameOutside s s := ⟨rfl, rfl, rfl, rfl, rfl, rfl, rfl, rfl⟩

theorem SameOutside.trans (h : SameOutside s t) (g : SameOutside t u) : SameOutside s u :=
  ⟨g.opa.trans h.opa, g.opb.trans h.opb, g.opn.trans h.opn, g.lastop.trans h.lastop,
   g.herr.trans h.herr, g.cause.trans h.cause, g.schedule.trans h.schedule, g.seen.trans h.seen⟩

/-- A micro-step goes on with RES, NOINV and STATE as they were, or completes the command; either way
nothing outside the command changes. -/
theorem microStep_frame (h : microStep s = .next t) :
    SameOutside s t ∧
      (t.state = s.state ∧ t.res = s.res ∧ t.noinv = s.noinv ∨ t.state = .done) := by
  unfold microStep at h
  split at h
  · unfold stepGLoop at h; split at h <;> cases h <;> exact ⟨⟨rfl, rfl, rfl, rfl, rfl, rfl, rfl, rfl⟩, by simp⟩
  · unfold stepILoop at h; split at h <;> cases h <;> exact ⟨⟨rfl, rfl, rfl, rfl, rfl, rfl, rfl, rfl⟩, by simp⟩
  · unfold stepIFin withModulus at h
    split at h
    · cases h; exact ⟨⟨rfl, rfl, rfl, rfl, rfl, rfl, rfl, rfl⟩, by simp⟩
    · split at h <;> cases h; exact ⟨⟨rfl, rfl, rfl, rfl, rfl, rfl, rfl, rfl⟩, by simp⟩
  · unfold stepPLoop withModulus at h
    split at h
    · cases h; exact ⟨⟨rfl, rfl, rfl, rfl, rfl, rfl, rfl, rfl⟩, by simp⟩
    · split at h <;> cases h; exact ⟨⟨rfl, rfl, rfl, rfl, rfl, rfl, rfl, rfl⟩, by simp⟩
  · unfold stepSPre at h
    split at h
    · cases h; exact ⟨⟨rfl, rfl, rfl, rfl, rfl, rfl, rfl, rfl⟩, by simp⟩
    · split at h <;> cases h <;> exact ⟨⟨rfl, rfl, rfl, rfl, rfl, rfl, rfl, rfl⟩, by simp⟩
  · unfold stepSSplit at h; split at h <;> cases h <;> exact ⟨⟨rfl, rfl, rfl, rfl, rfl, rfl, rfl, rfl⟩, by simp⟩
  · unfold stepSRound randBelow at h
    split at h
    · cases h; exact ⟨⟨rfl, rfl, rfl, rfl, rfl, rfl, rfl, rfl⟩, by simp⟩
    · split at h <;> cases h; exact ⟨⟨rfl, rfl, rfl, rfl, rfl, rfl, rfl, rfl⟩, by simp⟩
  · unfold stepSPow withModulus at h
    split at h
    · cases h; exact ⟨⟨rfl, rfl, rfl, rfl, rfl, rfl, rfl, rfl⟩, by simp⟩
    · split at h <;> cases h; exact ⟨⟨rfl, rfl, rfl, rfl, rfl, rfl, rfl, rfl⟩, by simp⟩
  · unfold stepSCheck at h; split at h <;> cases h <;> exact ⟨⟨rfl, rfl, rfl, rfl, rfl, rfl, rfl, rfl⟩, by simp⟩
  · unfold stepSSq withModulus at h
    split at h
    · split at h
      · cases h
      · dsimp only at h
        split at h <;> cases h <;> exact ⟨⟨rfl, rfl, rfl, rfl, rfl, rfl, rfl, rfl⟩, by simp⟩
    · cases h; exact ⟨⟨rfl, rfl, rfl, rfl, rfl, rfl, rfl, rfl⟩, by simp⟩
  · unfold stepSEnd at h; split at h <;> cases h <;> exact ⟨⟨rfl, rfl, rfl, rfl, rfl, rfl, rfl, rfl⟩, by simp⟩

/-- No micro-step is refused: only a port write can be. -/
theorem microStep_not_refused (s : State) (r : Refusal) : microStep s ≠ .refused r := by
  intro h
  unfold microStep at h
  split at h
  all_goals
    simp only [stepGLoop, stepILoop, stepIFin, stepPLoop, stepSPre, stepSSplit, stepSRound, stepSPow,
      stepSCheck, stepSSq, stepSEnd, withModulus, randBelow] at h
    repeat' (split at h)
  all_goals cases h

@[simp] theorem engineTurn_busy (h : s.state = .busy) : engineTurn s = microStep s := by
  simp [engineTurn, h]

@[simp] theorem engineTurn_still (h : s.state ≠ .busy) : engineTurn s = .next s := by
  unfold engineTurn; cases hs : s.state <;> simp_all

/-- Everything a turn of the engine can do. -/
theorem engineTurn_cases (h : engineTurn s = .next t) :
    s.state ≠ .busy ∧ t = s ∨ s.state = .busy ∧ microStep s = .next t := by
  by_cases hb : s.state = .busy
  · exact .inr ⟨hb, by simpa [hb] using h⟩
  · left; rw [engineTurn_still hb] at h; cases h; exact ⟨hb, rfl⟩

@[simp] theorem engineRun_zero (s : State) : engineRun 0 s = .next s := rfl

theorem engineRun_succ (h : engineTurn s = .next t) (n : Nat) :
    engineRun (n + 1) s = engineRun n t := by simp [engineRun, h]

/-- Runs of turns compose. -/
theorem engineRun_add {a : Nat} (b : Nat) (h : engineRun a s = .next t) :
    engineRun (a + b) s = engineRun b t := by
  induction a generalizing s with
  | zero => cases h; simp
  | succ a ih =>
    rw [Nat.succ_add]
    cases ht : engineTurn s with
    | next u => rw [engineRun_succ ht] at h ⊢; exact ih h
    | fault r => simp [engineRun, ht] at h
    | refused r => simp [engineRun, ht] at h

/-- The engine takes no step in DONE (R33). -/
theorem engineRun_still (h : s.state ≠ .busy) (n : Nat) : engineRun n s = .next s := by
  induction n with
  | zero => rfl
  | succ n ih => rw [engineRun_succ (engineTurn_still h)]; exact ih

end Sys2Proof.Machine
end

