-- ==== Sys2Proof/Laws/PerInstr.lean ====
section
/-! SUPPORT. The families of statements made per instruction, one lemma per constructor. -/

namespace Sys2Proof.Laws.Encoding

/-- A well-formed instruction's word fits the command format and decodes to it (R86, R87). -/
def Statement (i : Instr) : Prop :=
  i.wellFormed = true → commandWordFits (encodeWord i) = true ∧ decodeWord (encodeWord i) = .ok i

theorem gcd : Statement .gcd := fun _ => ⟨by decide, decodeWord_one⟩
theorem modinv : Statement .modinv := fun _ => ⟨by decide, decodeWord_two⟩
theorem powmod : Statement .powmod := fun _ => ⟨by decide, decodeWord_three⟩
theorem isprime : Statement .isprime := fun _ => ⟨by decide, decodeWord_four⟩

end Sys2Proof.Laws.Encoding
end

