-- ==== Sys2Proof/Laws/Step.lean ====
section
/-! SUPPORT. Everything a step can do, said once, with its guards. -/

namespace Sys2Proof.Machine

variable {s t : State}

/-- What accepting a command loads (R101, R113, R132, R152). -/
def acceptCommand : Instr → State → State
  | .gcd, s => acceptGcd s
  | .modinv, s => acceptModinv s
  | .powmod, s => acceptPowmod s
  | .isprime, s => acceptIsprime s

/-- What a step that has a next state can be. -/
inductive StepCase (s t : State) : Prop where
  /-- The engine's turn outside BUSY. -/
  | stillTurn (rest : List Event)
      (hs : s.schedule = [] ∧ rest = [] ∨ s.schedule = .engine :: rest)
      (hb : s.state ≠ .busy) (ht : t = { s with schedule := rest })
  /-- The engine's turn in BUSY. -/
  | micro (rest : List Event)
      (hs : s.schedule = [] ∧ rest = [] ∨ s.schedule = .engine :: rest)
      (hb : s.state = .busy) (ht : microStep { s with schedule := rest } = .next t)
  /-- A dropped write. -/
  | dropped (addr : PortAddr) (v : Nat) (rest : List Event) (hs : s.schedule = .write addr v :: rest)
      (hd : accepting s = false ∨ addr = 1#3 ∨ addr = 5#3 ∨ addr = 6#3 ∨ addr = 7#3)
      (ht : t = { s with schedule := rest, herr := true })
  /-- An accepted operand write. -/
  | wroteOpa (v : Nat) (rest : List Event) (hs : s.schedule = .write 2#3 v :: rest)
      (ha : accepting s = true) (ht : t = { s with schedule := rest, opa := v })
  | wroteOpb (v : Nat) (rest : List Event) (hs : s.schedule = .write 3#3 v :: rest)
      (ha : accepting s = true) (ht : t = { s with schedule := rest, opb := v })
  | wroteOpn (v : Nat) (rest : List Event) (hs : s.schedule = .write 4#3 v :: rest)
      (ha : accepting s = true) (ht : t = { s with schedule := rest, opn := v })
  /-- A command word that faults. -/
  | illegal (w : Nat) (rest : List Event) (hs : s.schedule = .write 0#3 w :: rest)
      (ha : accepting s = true) (hw : w ∉ [1, 2, 3, 4])
      (ht : t = { s with
        schedule := rest, res := 0, noinv := false, cause := .illegalCmd, state := .fault })
  | modZero (i : Instr) (rest : List Event) (hs : s.schedule = .write 0#3 (encodeWord i) :: rest)
      (ha : accepting s = true) (hi : i = .modinv ∨ i = .powmod) (hn : s.opn = 0)
      (ht : t = { s with
        schedule := rest, res := 0, noinv := false, cause := .modZero, state := .fault })
  /-- A command that starts. -/
  | started (i : Instr) (rest : List Event) (hs : s.schedule = .write 0#3 (encodeWord i) :: rest)
      (ha : accepting s = true) (hn : i = .modinv ∨ i = .powmod → s.opn ≠ 0)
      (ht : t = acceptCommand i { s with
        schedule := rest, res := 0, noinv := false, lastop := opcode i, state := .busy })
  /-- A read, a poll of `wait`, a Reset, a draw of the host's. -/
  | read (addr : PortAddr) (rest : List Event) (hs : s.schedule = .read addr :: rest)
      (ht : t = { s with schedule := rest, seen := .read addr (portValue addr s) :: s.seen })
  | wait (rest : List Event) (hs : s.schedule = .wait :: rest)
      (ht : t = { s with
        schedule := if s.state = .busy then .engine :: .wait :: rest else rest
        seen := .read 1#3 (statusByte s).toNat :: s.seen })
  | reset (rest : List Event) (hs : s.schedule = .reset :: rest)
      (ht : t = resetEngine { s with schedule := rest })
  | draw (b : Nat) (rest : List Event) (hs : s.schedule = .hostDraw b :: rest) (hb : b ≠ 0)
      (ht : t = { s with
        schedule := rest, seen := .draw b (nextAnswer b s) :: s.seen
        answers := s.answers.tail, requests := b :: s.requests })

theorem step_of_write {addr : PortAddr} {v : Nat} {rest : List Event}
    (hs : s.schedule = .write addr v :: rest) :
    step s = registerWrite (portRegister addr) v { s with schedule := rest } := by
  simp [step, nextEvent, hs, act, Config.maxBits, portWrite_none]

/-- Everything a write to a port register can do. -/
theorem registerWrite_cases (reg : PortRegister) (v : Nat) (s : State) :
    registerWrite reg v s = .next (dropWrite s) ∨
    reg = .opa ∧ accepting s = true ∧ registerWrite reg v s = .next { s with opa := v } ∨
    reg = .opb ∧ accepting s = true ∧ registerWrite reg v s = .next { s with opb := v } ∨
    reg = .opn ∧ accepting s = true ∧ registerWrite reg v s = .next { s with opn := v } ∨
    reg = .cmd ∧ registerWrite reg v s = commandWrite v s := by
  cases ha : accepting s <;> cases reg <;> simp [registerWrite, operandWrite, ha]

/-- A meaning always has a next state: no command stops the machine. -/
theorem exec_next (i : Instr) (s : State) : ∃ t, exec i s = .next t := by
  rcases exec_cases i s with ⟨-, h⟩ | ⟨-, -, -, h⟩ | ⟨-, -, h⟩ | ⟨-, -, -, h⟩ | ⟨-, -, -, h⟩ | ⟨-, -, h⟩ <;>
    exact ⟨_, h⟩

/-- A port write always has a next state at the normative MAXBITS. -/
theorem registerWrite_next (reg : PortRegister) (v : Nat) (s : State) :
    ∃ t, registerWrite reg v s = .next t := by
  rcases registerWrite_cases reg v s with h | ⟨-, -, h⟩ | ⟨-, -, h⟩ | ⟨-, -, h⟩ | ⟨-, h⟩
  · exact ⟨_, h⟩
  · exact ⟨_, h⟩
  · exact ⟨_, h⟩
  · exact ⟨_, h⟩
  · rcases commandWrite_cases v s with ⟨i, -, -, he⟩ | ⟨-, -, he⟩ | ⟨-, -, he⟩
    · rw [h, he]; exact exec_next i s
    · exact ⟨_, h.trans he⟩
    · exact ⟨_, h.trans he⟩

theorem portAddr_cases (addr : PortAddr) :
    addr = 0#3 ∨ addr = 1#3 ∨ addr = 2#3 ∨ addr = 3#3 ∨
    addr = 4#3 ∨ addr = 5#3 ∨ addr = 6#3 ∨ addr = 7#3 := by revert addr; decide

/-- A write to CMD in an accepting state. -/
theorem stepCase_of_commandWrite {w : Nat} {rest : List Event}
    (hs : s.schedule = .write 0#3 w :: rest)
    (h : commandWrite w { s with schedule := rest } = .next t) : StepCase s t := by
  rcases commandWrite_cases w { s with schedule := rest } with
    ⟨i, -, rfl, he⟩ | ⟨-, hn, he⟩ | ⟨hw, ha, he⟩
  · rw [he] at h
    rcases exec_cases i { s with schedule := rest } with
      ⟨hn, hx⟩ | ⟨ha, hi, hn, hx⟩ | ⟨ha, rfl, hx⟩ | ⟨ha, rfl, hn, hx⟩ | ⟨ha, rfl, hn, hx⟩ | ⟨ha, rfl, hx⟩ <;>
      rw [hx] at h <;> cases h
    · exact .dropped _ _ rest hs (.inl hn) rfl
    · exact .modZero i rest hs ha hi hn rfl
    · exact .started .gcd rest hs ha (by simp) rfl
    · exact .started .modinv rest hs ha (fun _ => hn) rfl
    · exact .started .powmod rest hs ha (fun _ => hn) rfl
    · exact .started .isprime rest hs ha (by simp) rfl
  · rw [he] at h; cases h; exact .dropped _ _ rest hs (.inl hn) rfl
  · rw [he] at h; cases h; exact .illegal w rest hs ha hw rfl

/-- An operand write, accepted or dropped. -/
theorem operandWrite_cases {written : State} (h : operandWrite s written = .next t) :
    accepting s = true ∧ t = written ∨ accepting s = false ∧ t = dropWrite s := by
  unfold operandWrite at h
  cases ha : accepting s <;> simp only [ha, Bool.false_eq_true, if_false, if_true] at h <;>
    cases h <;> simp

/-- Every step that has a next state is one of the cases. -/
theorem step_case (h : step s = .next t) : StepCase s t := by
  unfold step nextEvent at h
  split at h
  · next hs =>
    have e : { s with schedule := [] } = s := by rw [← hs]
    rcases engineTurn_cases h with ⟨hb, rfl⟩ | ⟨hb, hm⟩
    · exact .stillTurn [] (.inl ⟨hs, rfl⟩) hb e.symm
    · exact .micro [] (.inl ⟨hs, rfl⟩) hb (by rw [e]; exact hm)
  · next e rest hs =>
    cases e with
    | write addr v =>
      simp only [act, Config.maxBits, portWrite_none] at h
      rcases portAddr_cases addr with rfl | rfl | rfl | rfl | rfl | rfl | rfl | rfl
      · exact stepCase_of_commandWrite hs h
      · cases h; exact .dropped _ _ rest hs (by simp) rfl
      · rcases operandWrite_cases h with ⟨ha, rfl⟩ | ⟨ha, rfl⟩
        · exact .wroteOpa v rest hs ha rfl
        · exact .dropped _ _ rest hs (.inl ha) rfl
      · rcases operandWrite_cases h with ⟨ha, rfl⟩ | ⟨ha, rfl⟩
        · exact .wroteOpb v rest hs ha rfl
        · exact .dropped _ _ rest hs (.inl ha) rfl
      · rcases operandWrite_cases h with ⟨ha, rfl⟩ | ⟨ha, rfl⟩
        · exact .wroteOpn v rest hs ha rfl
        · exact .dropped _ _ rest hs (.inl ha) rfl
      · cases h; exact .dropped _ _ rest hs (by simp) rfl
      · cases h; exact .dropped _ _ rest hs (by simp) rfl
      · cases h; exact .dropped _ _ rest hs (by simp) rfl
    | read addr => cases h; exact .read addr rest hs rfl
    | reset => cases h; exact .reset rest hs rfl
    | wait =>
      refine .wait rest hs ?_
      simp only [act, hostWait] at h
      cases hb : s.state <;> rw [hb] at h <;> cases h <;>
        simp [observe, portValue, portRegister, registerValue, statusByte, hb]
    | hostDraw b =>
      by_cases hb : b = 0
      · simp [act, hostDraw, hb] at h
      · simp only [act, hostDraw, randBelow_pos hb] at h
        cases h; exact .draw b rest hs hb rfl
    | engine =>
      rcases engineTurn_cases h with ⟨hb, rfl⟩ | ⟨hb, hm⟩
      · exact .stillTurn rest (.inr hs) hb rfl
      · exact .micro rest (.inr hs) hb hm

/-- A step takes events off the schedule and adds none but turns of the engine. -/
theorem step_schedule_mem (h : step s = .next t) {e : Event} (he : e ∈ t.schedule) :
    e ∈ s.schedule ∨ e = .engine := by
  have tail : ∀ {e' : Event} {rest : List Event}, s.schedule = e' :: rest → e ∈ rest →
      e ∈ s.schedule ∨ e = .engine := fun hs hm => .inl (hs ▸ List.mem_cons_of_mem _ hm)
  have turn : ∀ {rest : List Event}, s.schedule = [] ∧ rest = [] ∨ s.schedule = .engine :: rest →
      e ∈ rest → e ∈ s.schedule ∨ e = .engine := by
    rintro rest (⟨-, rfl⟩ | hs) hm
    · simp at hm
    · exact tail hs hm
  cases step_case h with
  | stillTurn rest hs hb ht => subst ht; exact turn hs he
  | micro rest hs hb ht => rw [(microStep_frame ht).1.schedule] at he; exact turn hs he
  | dropped addr v rest hs hd ht => subst ht; exact tail hs he
  | wroteOpa v rest hs ha ht => subst ht; exact tail hs he
  | wroteOpb v rest hs ha ht => subst ht; exact tail hs he
  | wroteOpn v rest hs ha ht => subst ht; exact tail hs he
  | illegal w rest hs ha hw ht => subst ht; exact tail hs he
  | modZero i rest hs ha hi hn ht => subst ht; exact tail hs he
  | started i rest hs ha hn ht => subst ht; cases i <;> exact tail hs he
  | read addr rest hs ht => subst ht; exact tail hs he
  | reset rest hs ht => subst ht; exact tail hs he
  | draw b rest hs hb ht => subst ht; exact tail hs he
  | wait rest hs ht =>
    subst ht
    by_cases hb : s.state = .busy
    · simp only [hb, if_true, List.mem_cons] at he
      rcases he with rfl | rfl | he
      · exact .inr rfl
      · exact .inl (by simp [hs])
      · exact tail hs he
    · simp only [hb, if_false] at he
      exact tail hs he

end Sys2Proof.Machine
end

