-- ==== Sys2Proof/Tests/Slice0.lean ====
section
/-! SUPPORT. Tests: ill-formed terms that the checks refuse, words written out from the spec's encoding,
single steps with results from the spec's worked traces, and, for every statement with hypotheses, a
concrete state that meets them (`test_meets_<statement>`, one for each clause). -/

namespace Sys2Proof.Tests

open Sys2Proof Sys2Proof.Machine

/-! ### Small states -/

/-- An engine in IDLE that holds three operands, with these events to come. -/
def ready (a b n : Nat) (events : List Event) : State :=
  { State.reset with opa := a, opb := b, opn := n, schedule := events }

/-- The same engine running command `i`, at a phase. -/
def running (i : Instr) (ph : Phase) (w : Work) (a b n : Nat) (events : List Event) : State :=
  { ready a b n events with state := .busy, lastop := opcode i, phase := ph, work := w }

/-- The same engine with a finished command. -/
def finished (i : Instr) (a b n result : Nat) (events : List Event) : State :=
  { ready a b n events with state := .done, lastop := opcode i, res := result }

/-- An engine in FAULT with MOD_ZERO. -/
def faulted (events : List Event) : State :=
  { ready 0 0 0 events with state := .fault, cause := .modZero }

/-- spec/40_gcd.md's trace of 1071 and 462, after accept. -/
def gcdStart (events : List Event) : State :=
  running .gcd .gLoop { Work.reset with ga := 1071, gb := 462 } 1071 462 0 events

/-- The same trace at its end. -/
def gcdEnd (events : List Event) : State :=
  running .gcd .gLoop { Work.reset with ga := 21, gb := 0 } 1071 462 0 events

/-- spec/41_modinv.md's trace of 10 modulo 17, after step 2. -/
def modinvMiddle : State :=
  running .modinv .iLoop
    { Work.reset with q := 1, r := 7, r' := 3, s := 1, s' := -1, t := -1, t' := 2 } 10 0 17 []

/-- The same trace at I_FIN. -/
def modinvEnd : State :=
  running .modinv .iFin
    { Work.reset with q := 3, r := 1, r' := 0, s := 3, s' := -10, t := -5, t' := 17 } 10 0 17 []

/-- spec/41_modinv.md's trace of 4 modulo 6 at I_FIN: no inverse. -/
def modinvNone (events : List Event) : State :=
  running .modinv .iFin
    { Work.reset with q := 2, r := 2, r' := 0, s := 1, s' := -2, t := -1, t' := 3 } 4 0 6 events

/-- spec/42_powmod.md's trace of 4 to the 13 modulo 497, after iteration 2. -/
def powmodMiddle : State :=
  running .powmod .pLoop { Work.reset with v := 4, p := 256, i := 3 } 4 13 497 []

/-- The same trace at its end. -/
def powmodEnd : State :=
  running .powmod .pLoop { Work.reset with v := 445, p := 151, i := 0 } 4 13 497 []

/-- spec/43_isprime.md's trace of 13 with three rounds (k = 2, m = 3), at a phase, with these registers. -/
def isprimeAt (ph : Phase) (a v p i y j c : Nat) (answers : List Nat) : State :=
  { running .isprime ph
      { Work.reset with k := 2, m := 3, a := a, v := v, p := p, i := i, y := y, j := j, c := c }
      0 3 13 [] with answers := answers }

/-! ### Well-formedness -/

theorem test_word_255_fits : commandWordFits 255 = true := by decide
theorem test_word_256_does_not_fit : commandWordFits 256 = false := by decide
theorem test_draw_from_nothing_is_ill_formed : (Event.hostDraw 0).wellFormed = false := by decide
theorem test_draw_from_one_is_well_formed : (Event.hostDraw 1).wellFormed = true := by decide
theorem test_schedule_with_an_ill_formed_event :
    scheduleWellFormed [.read 5#3, .hostDraw 0] = false := by decide
theorem test_every_instruction_is_well_formed (i : Instr) : i.wellFormed = true := by
  cases i <;> rfl

/-! ### Words written out bit by bit (spec/30_encoding.md section 3, R86 to R88) -/

theorem test_decode_gcd : decodeWord 0b00000001 = .ok .gcd := rfl
theorem test_decode_modinv : decodeWord 0b00000010 = .ok .modinv := rfl
theorem test_decode_powmod : decodeWord 0b00000011 = .ok .powmod := rfl
theorem test_decode_isprime : decodeWord 0b00000100 = .ok .isprime := rfl
theorem test_decode_zero : decodeWord 0b00000000 = .error .unknownOpcode := rfl
theorem test_decode_five : decodeWord 0b00000101 = .error .unknownOpcode := rfl
theorem test_decode_255 : decodeWord 0b11111111 = .error .unknownOpcode := rfl
theorem test_decode_256 : decodeWord 0b100000000 = .error .highBitsSet := rfl
theorem test_decode_high_bit_over_powmod : decodeWord 0b100000011 = .error .highBitsSet := rfl

/-! ### One step each, against the spec's worked traces -/

/-- spec/40_gcd.md: (1071, 462) to (462, 147). -/
theorem test_gcd_reduces :
    step (gcdStart []) =
      .next (running .gcd .gLoop { Work.reset with ga := 462, gb := 147 } 1071 462 0 []) := rfl

/-- spec/40_gcd.md: RES = 21. -/
theorem test_gcd_completes :
    ∃ t, step (gcdEnd []) = .next t ∧ t.res = 21 ∧ t.state = .done ∧ t.noinv = false :=
  ⟨_, rfl, by decide⟩

/-- spec/41_modinv.md, step 3: q = 2, (3, 1), (−1, 3), (2, −5). -/
theorem test_modinv_reduces :
    step modinvMiddle = .next (running .modinv .iLoop
      { Work.reset with q := 2, r := 3, r' := 1, s := -1, s' := 3, t := 2, t' := -5 }
      10 0 17 []) := rfl

/-- spec/41_modinv.md: RES = emod(−5, 17) = 12, NOINV = 0. -/
theorem test_modinv_normalises :
    ∃ t, step modinvEnd = .next t ∧ t.res = 12 ∧ t.state = .done ∧ t.noinv = false :=
  ⟨_, rfl, by decide⟩

/-- spec/42_powmod.md, iteration 3: v = 30, p = 429, i = 1. -/
theorem test_powmod_iterates :
    step powmodMiddle =
      .next (running .powmod .pLoop { Work.reset with v := 30, p := 429, i := 1 } 4 13 497 []) := rfl

/-- spec/42_powmod.md R135: OPN = 0 faults with cause 2, RES 0 (STATUS = 3 + 16·2). -/
theorem test_powmod_without_modulus :
    ∃ t, step (ready 2 3 0 [.write 0#3 3]) = .next t ∧ portValue 1#3 t = 35 ∧ t.lastop = 0#8 :=
  ⟨_, rfl, by decide⟩

/-- spec/43_isprime.md, round 2: the draw 5 gives the witness 7, the request has bound 10. -/
theorem test_isprime_draws :
    ∃ t, step (isprimeAt .sRound 2 1 0 0 12 2 1 [5, 9]) = .next t ∧
      t.work.a = 7 ∧ t.work.p = 7 ∧ t.work.v = 1 ∧ t.work.i = 3 ∧ t.phase = .sPow ∧
      t.answers = [9] ∧ t.requests = [10] := ⟨_, rfl, by decide⟩

/-- spec/43_isprime.md R164: 561 with witness 2, the third squaring (j = 3 < k = 4) gives 1. -/
theorem test_isprime_condemns_561 :
    ∃ t, step (running .isprime .sSq
        { Work.reset with k := 4, m := 35, a := 2, y := 67, j := 3 } 0 1 561 []) = .next t ∧
      t.res = 0 ∧ t.state = .done := ⟨_, rfl, by decide⟩

/-- An illegal word written while BUSY reports only HERR (R306). -/
theorem test_illegal_word_while_busy :
    ∃ t, step (gcdStart [.write 0#3 9]) = .next t ∧ portValue 1#3 t = 9 ∧ t.work.gb = 462 :=
  ⟨_, rfl, by decide⟩

/-- The host's question after reset: the placed word is the very next thing processed (log 8). -/
theorem test_placed_word_runs_next :
    ∃ t, step (State.reset.withFetchWord 8 4) = .next t ∧ t.state = .busy ∧ t.lastop = 4#8 ∧
      t.schedule = [] := ⟨_, rfl, by decide⟩

/-! ### States that meet the hypotheses of the statements

One for each statement with hypotheses, or for each of its clauses. Each is the statement's hypotheses,
conjoined, at concrete values. -/

theorem test_meets_StepExecutesTheDecodedCommand :
    (ready 3 0 7 [.write 0#3 2, .wait]).schedule = .write 0#3 2 :: [.wait] ∧
      decodeWord 2 = .ok .modinv := ⟨rfl, rfl⟩

theorem test_meets_StepGivesTheEngineItsTurn :
    (gcdStart []).schedule = [] ∧ (gcdStart [.engine, .reset]).schedule = .engine :: [.reset] ∧
      (ready 1 2 3 []).state ≠ .busy := by decide

theorem test_meets_ResetLeavesTheListedValues :
    (gcdStart [.reset, .wait]).schedule = .reset :: [.wait] := rfl

/-- In FAULT, with HERR, and in BUSY with the completing micro-step. -/
theorem test_meets_OnlyResetLeavesFaultClearsHerrOrStopsACommand :
    (∃ t, step (faulted [.write 2#3 1]) = .next t ∧ (faulted [.write 2#3 1]).state = .fault ∧
      ∀ rest, (faulted [.write 2#3 1]).schedule ≠ .reset :: rest) ∧
    (∃ t, step { ready 1 2 3 [.wait] with herr := true } = .next t ∧
      ∀ rest, (ready 1 2 3 [.wait]).schedule ≠ .reset :: rest) ∧
    (∃ t, step (gcdEnd []) = .next t ∧ (gcdEnd []).state = .busy ∧ t.state = .done ∧
      ∀ rest, (gcdEnd []).schedule ≠ .reset :: rest) :=
  ⟨⟨_, rfl, rfl, fun _ h => by cases h⟩, ⟨_, rfl, fun _ h => by cases h⟩,
   ⟨_, rfl, rfl, rfl, fun _ h => by cases h⟩⟩

theorem test_meets_StatusByteHasTheSpecifiedLayout :
    (ready 1 2 3 [.write 1#3 255]).schedule = .write 1#3 255 :: [] ∧
      (faulted [.read 1#3]).schedule = .read 1#3 :: [] := ⟨rfl, rfl⟩

/-- At the first and the last address of the map. -/
theorem test_meets_ReadReturnsTheMappedRegister :
    (gcdStart [.read 0#3]).schedule = .read 0#3 :: [] ∧
      (gcdStart [.read 7#3]).schedule = .read 7#3 :: [] := ⟨rfl, rfl⟩

/-- At each of the three addresses, in IDLE and in DONE. -/
theorem test_meets_AcceptedOperandWriteSetsOnlyItsRegister :
    ((ready 1 2 3 [.write 2#3 0]).schedule = .write 2#3 0 :: [] ∧ (ready 1 2 3 []).state = .idle) ∧
    ((finished .gcd 4 6 0 2 [.write 3#3 9]).schedule = .write 3#3 9 :: [] ∧
      (finished .gcd 4 6 0 2 []).state = .done) ∧
    ((ready 1 2 3 [.write 4#3 5]).schedule = .write 4#3 5 :: [] ∧ (ready 1 2 3 []).state = .idle) := by
  decide

/-- Dropped in BUSY, in FAULT and for its address; and a write that is not dropped. -/
theorem test_meets_DroppedWriteSetsOnlyHerr :
    ((gcdStart [.write 2#3 1]).schedule = .write 2#3 1 :: [] ∧ (gcdStart []).state = .busy) ∧
    ((faulted [.write 0#3 1]).schedule = .write 0#3 1 :: [] ∧ (faulted []).state = .fault) ∧
    (ready 1 2 3 [.write 5#3 1]).schedule = .write 5#3 1 :: [] ∧
    ((ready 1 2 3 [.write 4#3 1]).schedule = .write 4#3 1 :: [] ∧
      ¬((ready 1 2 3 []).state = .busy ∨ (ready 1 2 3 []).state = .fault ∨
        (4#3 : PortAddr) = 1#3 ∨ (4#3 : PortAddr) = 5#3 ∨ (4#3 : PortAddr) = 6#3 ∨
        (4#3 : PortAddr) = 7#3)) := by decide

/-- Each arm of the order of checks, at its boundary: words 0 and 5, OPN 0 and 1. -/
theorem test_meets_CommandIssueFollowsTheOrderOfChecks :
    ((gcdStart [.write 0#3 5]).schedule = .write 0#3 5 :: [] ∧ (gcdStart []).state = .busy) ∧
    ((ready 1 2 0 [.write 0#3 0]).schedule = .write 0#3 0 :: [] ∧
      (ready 1 2 0 []).state = .idle ∧ 0 ∉ [1, 2, 3, 4]) ∧
    ((ready 1 2 0 [.write 0#3 5]).schedule = .write 0#3 5 :: [] ∧ 5 ∉ [1, 2, 3, 4]) ∧
    ((ready 1 2 0 [.write 0#3 3]).schedule = .write 0#3 3 :: [] ∧ 3 ∈ [2, 3] ∧ (ready 1 2 0 []).opn = 0) ∧
    (finished .gcd 4 6 0 2 [.write 0#3 1]).schedule = .write 0#3 1 :: [] ∧
    ((ready 1 2 1 [.write 0#3 2]).schedule = .write 0#3 2 :: [] ∧ (ready 1 2 1 []).opn ≠ 0) ∧
    ((ready 1 2 1 [.write 0#3 3]).schedule = .write 0#3 3 :: [] ∧ (ready 1 2 1 []).opn ≠ 0) ∧
    ((ready 0 2 0 [.write 0#3 4]).schedule = .write 0#3 4 :: [] ∧ (ready 0 2 0 []).state = .idle) := by
  decide

/-- Just above and just below eight bits. -/
theorem test_meets_MaxBitsOnlyRefusesLongerValues : 2 ^ 8 ≤ 256 ∧ 255 < 2 ^ 8 := by decide

theorem test_meets_FaultIsEnteredOnlyByAFaultingIssue :
    ∃ t, step (ready 3 0 0 [.write 0#3 2]) = .next t ∧ (ready 3 0 0 []).state ≠ .fault ∧
      t.state = .fault := ⟨_, rfl, by decide⟩

theorem test_meets_FaultIsTerminalUntilReset :
    (faulted [.write 0#3 1, .wait]).state = .fault ∧
      .reset ∉ (faulted [.write 0#3 1, .wait]).schedule ∧
      scheduleWellFormed (faulted [.write 0#3 1, .wait]).schedule = true := by decide

/-- A step by each kind of event. -/
theorem test_meets_RunStateChangesOnlyAsTheTableSays :
    (∃ t, step (gcdStart [.reset]) = .next t) ∧ (∃ t, step (ready 1 2 3 [.write 0#3 4]) = .next t) ∧
    (∃ t, step (faulted [.read 5#3]) = .next t) ∧ (∃ t, step (gcdStart [.wait]) = .next t) ∧
    (∃ t, step { ready 1 2 3 [.hostDraw 5] with answers := [9] } = .next t) ∧
    (∃ t, step (gcdStart []) = .next t) ∧ (∃ t, step (gcdStart [.engine]) = .next t) :=
  ⟨⟨_, rfl⟩, ⟨_, rfl⟩, ⟨_, rfl⟩, ⟨_, rfl⟩, ⟨_, rfl⟩, ⟨_, rfl⟩, ⟨_, rfl⟩⟩

theorem test_meets_HerrIsStickyAndDoesNotDisturbACommand :
    ((ready 1 2 3 [.write 6#3 0]).schedule = .write 6#3 0 :: [] ∧
      ((6#3 : PortAddr) = 5#3 ∨ (6#3 : PortAddr) = 6#3)) ∧
    (∃ t, step (gcdStart [.write 2#3 1]) = .next t ∧ (gcdStart [.write 2#3 1]).herr = false ∧
      t.herr = true) ∧
    (∃ t, step { gcdStart [.reset] with herr := true } = .next t ∧ t.herr = false) ∧
    (∃ t, engineRun 1 (gcdStart []) = .next t) :=
  ⟨by decide, ⟨_, rfl, rfl, rfl⟩, ⟨_, rfl, rfl⟩, ⟨_, rfl⟩⟩

theorem test_meets_NoinvIsSetOnlyByModinvAndClearedByIssueOrReset :
    (∃ t, step (modinvNone []) = .next t ∧ (modinvNone []).noinv = false ∧ t.noinv = true) ∧
    ((modinvNone []).state = .busy ∧ (modinvNone []).phase = .iFin ∧ 1 < (modinvNone []).work.r ∧
      (modinvNone []).schedule = []) ∧
    (∃ t, step { finished .modinv 4 0 6 0 [.write 0#3 1] with noinv := true } = .next t ∧
      t.noinv = false ∧ (finished .modinv 4 0 6 0 []).state = .done) ∧
    (∃ t, step { finished .modinv 4 0 6 0 [.reset] with noinv := true } = .next t ∧
      t.noinv = false) :=
  ⟨⟨_, rfl, rfl, rfl⟩, by decide, ⟨_, rfl, rfl, rfl⟩, ⟨_, rfl, rfl⟩⟩

theorem test_meets_OperandsChangeOnlyByAcceptedWritesAndReset :
    (∃ t, step (ready 1 2 3 [.write 2#3 9]) = .next t ∧ t.opa ≠ 1 ∧
      ∀ rest, (ready 1 2 3 [.write 2#3 9]).schedule ≠ .reset :: rest) ∧
    (∃ t, step (ready 1 2 3 [.write 3#3 9]) = .next t ∧ t.opb ≠ 2 ∧
      ∀ rest, (ready 1 2 3 [.write 3#3 9]).schedule ≠ .reset :: rest) ∧
    (∃ t, step (ready 1 2 3 [.write 4#3 9]) = .next t ∧ t.opn ≠ 3 ∧
      ∀ rest, (ready 1 2 3 [.write 4#3 9]).schedule ≠ .reset :: rest) :=
  ⟨⟨_, rfl, by decide, fun _ h => by cases h⟩, ⟨_, rfl, by decide, fun _ h => by cases h⟩,
   ⟨_, rfl, by decide, fun _ h => by cases h⟩⟩

theorem test_meets_ResultIsWrittenOnlyByIssueCompleteAndReset :
    (∃ t, step (gcdEnd []) = .next t ∧ t.res ≠ (gcdEnd []).res) ∧
    (∃ t, step (finished .gcd 4 6 0 2 [.write 0#3 4]) = .next t ∧ t.res ≠ 2) ∧
    (∃ t, step (finished .gcd 4 6 0 2 [.reset]) = .next t ∧ t.res ≠ 2) :=
  ⟨⟨_, rfl, by decide⟩, ⟨_, rfl, by decide⟩, ⟨_, rfl, by decide⟩⟩

theorem test_meets_LastopIsTheMostRecentlyStartedCommand :
    ∃ t, step (finished .gcd 4 6 5 2 [.write 0#3 3]) = .next t ∧
      t.lastop ≠ (finished .gcd 4 6 5 2 []).lastop ∧ (finished .gcd 4 6 5 2 []).state ≠ .busy ∧
      t.state = .busy := ⟨_, rfl, by decide⟩

theorem test_meets_GcdMicroStepReducesOrCompletes :
    ((gcdEnd []).state = .busy ∧ (gcdEnd []).phase = .gLoop ∧ (gcdEnd []).work.gb = 0) ∧
      (gcdStart []).state = .busy ∧ (gcdStart []).phase = .gLoop ∧ (gcdStart []).work.gb ≠ 0 := by
  decide

/-- A reducing step, the step out of the loop, r = 1 and r = 2 at I_FIN. -/
theorem test_meets_ModinvMicroStepsFollowTheRecurrence :
    (modinvMiddle.state = .busy ∧ modinvMiddle.phase = .iLoop ∧ modinvMiddle.work.r' ≠ 0) ∧
    (running .modinv .iLoop Work.reset 0 0 1 []).work.r' = 0 ∧
    (modinvEnd.state = .busy ∧ modinvEnd.phase = .iFin ∧ modinvEnd.opn ≠ 0 ∧
      modinvEnd.work.r ≤ 1) ∧
    ((modinvNone []).phase = .iFin ∧ 1 < (modinvNone []).work.r) := by decide

theorem test_meets_PowmodMicroStepSquaresAndMultiplies :
    (powmodEnd.state = .busy ∧ powmodEnd.phase = .pLoop ∧ powmodEnd.work.i = 0) ∧
      powmodMiddle.state = .busy ∧ powmodMiddle.phase = .pLoop ∧ powmodMiddle.work.i ≠ 0 ∧
      powmodMiddle.opn ≠ 0 := by decide

/-- S_PRE at OPN 1, 3 and 4; S_SPLIT with m even and odd. -/
theorem test_meets_IsprimeSmallCasesAndSplit :
    (running .isprime .sPre Work.reset 0 0 1 []).opn = 1 ∧
    (running .isprime .sPre Work.reset 0 0 3 []).opn = 3 ∧
    (4 ≤ (running .isprime .sPre Work.reset 0 0 4 []).opn ∧
      (running .isprime .sPre Work.reset 0 0 4 []).state = .busy) ∧
    (running .isprime .sSplit { Work.reset with m := 12 } 0 0 13 []).work.m % 2 = 0 ∧
    (running .isprime .sSplit { Work.reset with m := 3, k := 2 } 0 0 13 []).work.m % 2 = 1 := by
  decide

/-- After the last round, and before it with the largest answer for OPN = 13. -/
theorem test_meets_IsprimeRoundDrawsOneWitness :
    ((isprimeAt .sRound 0 0 0 0 0 0 3 []).phase = .sRound ∧
      (isprimeAt .sRound 0 0 0 0 0 0 3 []).work.c = (isprimeAt .sRound 0 0 0 0 0 0 3 []).opb) ∧
    ((isprimeAt .sRound 0 0 0 0 0 0 2 []).state = .busy ∧
      (isprimeAt .sRound 0 0 0 0 0 0 2 []).work.c ≠ (isprimeAt .sRound 0 0 0 0 0 0 2 []).opb ∧
      4 ≤ (isprimeAt .sRound 0 0 0 0 0 0 2 []).opn ∧
      9 < (isprimeAt .sRound 0 0 0 0 0 0 2 []).opn - 3) := by decide

/-- The clauses of each phase, on the trace of 13 and of 561 (spec/43_isprime.md). -/
theorem test_meets_IsprimeWitnessRoundMicroSteps :
    ((isprimeAt .sPow 2 8 9 0 0 0 0 []).state = .busy ∧ (isprimeAt .sPow 2 8 9 0 0 0 0 []).work.i = 0) ∧
    (isprimeAt .sPow 2 1 2 3 0 0 0 []).work.i ≠ 0 ∧
    (isprimeAt .sCheck 2 0 0 0 12 0 0 []).work.y = (isprimeAt .sCheck 2 0 0 0 12 0 0 []).opn - 1 ∧
    ((isprimeAt .sCheck 2 0 0 0 8 0 0 []).work.y ≠ 1 ∧
      (isprimeAt .sCheck 2 0 0 0 8 0 0 []).work.y ≠ (isprimeAt .sCheck 2 0 0 0 8 0 0 []).opn - 1) ∧
    (3 < 4 ∧ 67 ≠ 561 - 1 ∧ 67 * 67 % 561 = 1) ∧
    ((isprimeAt .sSq 2 0 0 0 8 1 0 []).work.j < (isprimeAt .sSq 2 0 0 0 8 1 0 []).work.k ∧
      8 * 8 % 13 ≠ 1 ∧ 8 ≠ 13 - 1) ∧
    (isprimeAt .sSq 2 0 0 0 12 2 0 []).work.k ≤ (isprimeAt .sSq 2 0 0 0 12 2 0 []).work.j ∧
    (isprimeAt .sEnd 2 0 0 0 8 2 0 []).work.y ≠ (isprimeAt .sEnd 2 0 0 0 8 2 0 []).opn - 1 ∧
    (isprimeAt .sEnd 2 0 0 0 12 2 0 []).work.y = (isprimeAt .sEnd 2 0 0 0 12 2 0 []).opn - 1 := by
  decide

theorem test_meets_ModinvKeepsBezoutsEquations :
    (accepting (ready 10 0 17 []) = true ∧ (ready 10 0 17 []).opn ≠ 0) ∧
      modinvMiddle.state = .busy ∧ modinvMiddle.phase = .iLoop ∧ ModinvInv modinvMiddle ∧
      ∃ t, engineTurn modinvMiddle = .next t :=
  ⟨by decide, rfl, rfl, ⟨by decide, by decide, by decide, by decide⟩, _, rfl⟩

theorem test_meets_GcdRunsToTheGreatestCommonDivisor : accepting (ready 0 0 0 []) = true := rfl

/-- With an inverse and without one. -/
theorem test_meets_ModinvRunsToTheInverseOrNoinv :
    (accepting (ready 3 0 7 []) = true ∧ (ready 3 0 7 []).opn ≠ 0 ∧ Nat.gcd 3 7 = 1) ∧
      accepting (finished .gcd 4 6 6 2 []) = true ∧ (finished .gcd 4 6 6 2 []).opn ≠ 0 ∧
      Nat.gcd 4 6 ≠ 1 := by decide

theorem test_meets_PowmodRunsToThePower :
    (accepting (ready 4 13 497 []) = true ∧ (ready 4 13 497 []).opn ≠ 0 ∧ 2 ≤ 497) ∧
      accepting (ready 4 0 1 []) = true ∧ (ready 4 0 1 []).opn = 1 := by decide

/-- n = 13 = 2²·3 + 1, n = 4 = 2⁰·3 + 1, and n = 3, for which no split is asked. -/
theorem test_meets_IsprimeRunsToTheMillerRabinVerdict :
    (accepting (ready 0 3 13 []) = true ∧ (4 ≤ 13 → 13 = 2 ^ 2 * 3 + 1 ∧ 3 % 2 = 1)) ∧
    (accepting (ready 0 1 4 []) = true ∧ (4 ≤ 4 → 4 = 2 ^ 0 * 3 + 1 ∧ 3 % 2 = 1)) ∧
    (accepting (ready 0 1 3 []) = true ∧ (4 ≤ 3 → 3 = 2 ^ 0 * 0 + 1 ∧ 0 % 2 = 1)) := by decide

theorem test_meets_ZeroModulusFaultsModinvAndPowmodOnly :
    accepting (ready 3 5 0 []) = true ∧ (ready 3 5 0 []).opn = 0 := by decide

theorem test_meets_WitnessRoundPassesExactlyOnStrongProbablePrimes : 4 ≤ 25 := by decide

theorem test_meets_NoWitnessCondemnsAPrime :
    Nat.Prime 5 ∧ 5 = 2 ^ 2 * 1 + 1 ∧ 2 ≤ 2 ∧ 2 + 2 ≤ 5 := by norm_num

/-! States of the invariant: a running command of each family, each with its completing micro-step next. -/

theorem test_gcdEnd_inv : (gcdEnd []).Inv :=
  ⟨⟨by decide, by decide, by decide, by decide, by decide, by decide, by decide⟩,
   fun _ => ⟨rfl, show Nat.gcd 21 0 = Nat.gcd 1071 462 by decide⟩⟩

theorem test_modinvEnd_inv : modinvEnd.Inv :=
  ⟨⟨by decide, by decide, by decide, by decide, by decide, by decide, by decide⟩,
   fun _ => ⟨rfl, ⟨by decide, by decide, by decide, by decide⟩, rfl⟩⟩

theorem test_modinvNone_inv : (modinvNone []).Inv :=
  ⟨⟨by decide, by decide, by decide, by decide, by decide, by decide, by decide⟩,
   fun _ => ⟨rfl, ⟨by decide, by decide, by decide, by decide⟩, rfl⟩⟩

theorem test_powmodEnd_inv : powmodEnd.Inv :=
  ⟨⟨by decide, by decide, by decide, by decide, by decide, by decide, by decide⟩,
   fun _ => ⟨rfl, by decide, by decide, by decide, by decide⟩⟩

theorem test_isprimeLastRound_inv : (isprimeAt .sRound 0 0 0 0 0 0 3 []).Inv :=
  ⟨⟨by decide, by decide, by decide, by decide, by decide, by decide, by decide⟩,
   fun _ => ⟨rfl, ⟨by decide, by decide⟩, by decide, by decide⟩⟩

theorem test_isprimeZero_inv : (running .isprime .sPre Work.reset 0 1 0 []).Inv :=
  ⟨⟨by decide, by decide, by decide, by decide, by decide, by decide, by decide⟩,
   fun _ => ⟨rfl, trivial⟩⟩

theorem test_meets_EveryStepKeepsTheInvariant :
    (gcdEnd []).Inv ∧ ∃ t, step (gcdEnd []) = .next t := ⟨test_gcdEnd_inv, _, rfl⟩

theorem test_meets_NoStepStopsUnderTheInvariant :
    modinvEnd.Inv ∧ scheduleWellFormed modinvEnd.schedule = true := ⟨test_modinvEnd_inv, rfl⟩

theorem test_meets_OutcomeRegistersReadAsTheirStateSays :
    powmodEnd.Inv ∧ ∃ t, step powmodEnd = .next t ∧ t.state ≠ .fault :=
  ⟨test_powmodEnd_inv, _, rfl, by decide⟩

/-- Each command's completion: GCD, MODINV with and without an inverse, POWMOD, ISPRIME with 1 and 0. -/
theorem test_meets_CompletionLeavesTheResultUnderEveryInterleaving :
    ((gcdEnd []).Inv ∧ ∃ t, step (gcdEnd []) = .next t ∧ t.state = .done) ∧
    (modinvEnd.Inv ∧ Nat.gcd modinvEnd.opa modinvEnd.opn = 1 ∧
      ∃ t, step modinvEnd = .next t ∧ t.state = .done) ∧
    ((modinvNone []).Inv ∧ Nat.gcd (modinvNone []).opa (modinvNone []).opn ≠ 1 ∧
      ∃ t, step (modinvNone []) = .next t ∧ t.state = .done) ∧
    (powmodEnd.Inv ∧ ∃ t, step powmodEnd = .next t ∧ t.state = .done) ∧
    ((isprimeAt .sRound 0 0 0 0 0 0 3 []).Inv ∧ Nat.Prime 13 ∧
      ∃ t, step (isprimeAt .sRound 0 0 0 0 0 0 3 []) = .next t ∧ t.state = .done) ∧
    ((running .isprime .sPre Work.reset 0 1 0 []).Inv ∧
      ∃ t, step (running .isprime .sPre Work.reset 0 1 0 []) = .next t ∧ t.state = .done ∧
        t.res = 0) :=
  ⟨⟨test_gcdEnd_inv, _, rfl, rfl⟩, ⟨test_modinvEnd_inv, by decide, _, rfl, rfl⟩,
   ⟨test_modinvNone_inv, by decide, _, rfl, rfl⟩, ⟨test_powmodEnd_inv, _, rfl, rfl⟩,
   ⟨test_isprimeLastRound_inv, by norm_num, _, rfl, rfl⟩, ⟨test_isprimeZero_inv, _, rfl, rfl, rfl⟩⟩

theorem test_meets_EveryRunningCommandCompletes :
    (isprimeAt .sRound 0 0 0 0 0 0 3 []).Inv ∧ (isprimeAt .sRound 0 0 0 0 0 0 3 []).state = .busy :=
  ⟨test_isprimeLastRound_inv, rfl⟩

/-- A draw of the host's own, and one of a witness. -/
theorem test_meets_GeneratorIsSharedAndNotReset :
    ((ready 1 2 3 [.hostDraw 5]).schedule = .hostDraw 5 :: [] ∧ 5 ≠ 0 ∧ 4 < 5) ∧
    (∃ t, step (isprimeAt .sRound 0 0 0 0 0 0 2 [9]) = .next t ∧
      t.requests ≠ (isprimeAt .sRound 0 0 0 0 0 0 2 [9]).requests) :=
  ⟨by decide, _, rfl, by decide⟩

theorem test_meets_PseudoInstructionsReturnTheirResults :
    accepting (finished .gcd 4 6 0 2 []) = true ∧ (7 ≠ 0 ∧ Nat.gcd 3 7 = 1) ∧
      (6 ≠ 0 ∧ Nat.gcd 4 6 ≠ 1) ∧ (4 ≤ 1 → 1 = 2 ^ 0 * 0 + 1 ∧ 0 % 2 = 1) ∧
      (4 ≤ 3 → 3 = 2 ^ 1 * 1 + 1 ∧ 1 % 2 = 1) ∧ (4 ≤ 13 → 13 = 2 ^ 2 * 3 + 1 ∧ 3 % 2 = 1) ∧
      Nat.Prime 13 := by
  refine ⟨rfl, by decide, by decide, by decide, by decide, by decide, by norm_num⟩

/-- p = 3, q = 5: n = 45, λ = 4. -/
theorem test_meets_EncryptedBlockDecryptsToItself :
    accepting (ready 0 0 0 []) = true ∧ Nat.Prime 3 ∧ Nat.Prime 5 ∧ 3 ≠ 5 ∧
      Nat.gcd (3 * 3 * 5) (Nat.lcm (3 - 1) (5 - 1)) = 1 ∧ 14 < 3 * 5 := by
  refine ⟨rfl, by norm_num, by norm_num, by decide, by decide, by decide⟩

theorem test_meets_PayloadsAreFullButTheLastAndLoseNothing : 1 ≤ [0#8, 7#8, 0#8].length := by decide

/-- p = 4129, q = 4049: n = 69029947409 has 37 bits, the fewest that leave room for a payload byte. -/
theorem test_meets_EncryptedStreamDecryptsToItself :
    accepting (ready 0 0 0 []) = true ∧ Nat.Prime 4129 ∧ Nat.Prime 4049 ∧ 4129 ≠ 4049 ∧
      (Nat.lcm (4129 - 1) (4049 - 1) : Int) ∣ ((4129 * 4129 * 4049 : Nat) : Int) * 648305 - 1 ∧
      2 ≤ encryptBlockLength (4129 * 4129 * 4049) := by
  refine ⟨rfl, by norm_num, by norm_num, by decide, ?_, by decide⟩
  norm_num [Nat.lcm]

/-- Bad hexadecimal, a line of four bytes for k = 0, and the longest line a block can have. -/
theorem test_meets_MalformedLinesFailBeforeTheEngineIsUsed :
    decryptLine 0 0 ['g'] (ready 0 0 0 []) = .error .malformedLine ∧
      parseHex "10000000".toList = some (2 ^ 28) ∧ ciphertextSizeFits 0 (2 ^ 28) = false ∧
      1 ≤ 2 ∧ 2 ≤ 3 ∧ 11 < 2 * 2 * 3 := ⟨rfl, by decide, by decide, by decide⟩

/-- One line decrypted, with a malformed one to come; and the empty plaintext encrypted to one line. -/
theorem test_meets_StreamFailuresKeepWhatWasEmitted :
    (∃ bytes s₁, decryptStream 9 (.ofList [['5']]) 0 15 .reliable (ready 0 0 0 []) = ⟨bytes, .ok s₁⟩ ∧
      decryptLine 9 (decryptBlockLength 15) ['g'] s₁ = .error .malformedLine ∧
      [['5']].length ≤ 1 ∧ 0 < [['5']].length) ∧
    (∃ lines s₁, encryptStream 99 (.ofList []) (2 ^ 36) .reliable (ready 0 0 0 []) =
      ⟨lines, .ok s₁⟩) := ⟨⟨_, _, rfl, rfl, by decide⟩, ⟨_, _, rfl⟩⟩

theorem test_meets_HexadecimalTextReadsBack :
    ['a', 'n', 'n'].any Char.isWhitespace = false := by decide

theorem test_meets_ExactBitCountsNeverMeetTheBitBudget :
    1 ≤ 8 ∧ 2 * 2 + 4 ≤ 8 ∧ 3 < 2 ^ 2 ∧ 13 < 2 ^ 4 := by decide

end Sys2Proof.Tests
end

section
/-! The step by its next event, and the turns of the engine. -/

namespace Sys2Proof.Machine

variable {s : State}

theorem step_of_nil (hs : s.schedule = []) : step s = engineTurn s := by
  simp [step, nextEvent, hs]

theorem step_of_cons {e : Event} {rest : List Event} (hs : s.schedule = e :: rest) :
    step s = act e { s with schedule := rest } := by
  simp [step, nextEvent, hs]

theorem step_of_engine {rest : List Event} (hs : s.schedule = .engine :: rest) :
    step s = engineTurn { s with schedule := rest } :=
  step_of_cons hs

/-- Settles O4, from what the step does on an empty schedule and on an engine event. -/
theorem stepGivesTheEngineItsTurn : Obligations.StepGivesTheEngineItsTurn :=
  fun _ => ⟨step_of_nil, fun _ => step_of_engine, engineTurn_still⟩

end Sys2Proof.Machine
end

section
/-! Everything a micro-step can do, said once, and what it does to NOINV and to the generator. -/

namespace Sys2Proof.Machine

variable {s t : State}

/-- What a micro-step that has a next state can be: the branches of R102, R114 to R117, R133 and R153 to
R160, each with its guard and its whole next state. -/
inductive MicroCase (s t : State) : Prop where
  | gcdEnds (hp : s.phase = .gLoop) (hgb : s.work.gb = 0) (ht : t = complete s.work.ga s)
  | gcdReduces (hp : s.phase = .gLoop) (hgb : s.work.gb ≠ 0)
      (ht : t = { s with
        work := { s.work with ga := s.work.gb, gb := s.work.ga % s.work.gb }, phase := .gLoop })
  | euclidEnds (hp : s.phase = .iLoop) (hr : s.work.r' = 0) (ht : t = { s with phase := .iFin })
  | euclidReduces (hp : s.phase = .iLoop) (hr : s.work.r' ≠ 0)
      (ht : t = { s with work := reduceModinv s.work, phase := .iLoop })
  | noInverse (hp : s.phase = .iFin) (hr : 1 < s.work.r) (ht : t = complete 0 (raiseNoinv s))
  | inverse (hp : s.phase = .iFin) (hr : ¬ 1 < s.work.r) (hn : s.opn ≠ 0)
      (ht : t = complete (emod s.work.t s.opn) s)
  | powmodEnds (hp : s.phase = .pLoop) (hi : s.work.i = 0) (ht : t = complete s.work.v s)
  | powmodIterates (hp : s.phase = .pLoop) (hi : s.work.i ≠ 0) (hn : s.opn ≠ 0)
      (ht : t = { s with work := squareMultiply s.opn s.work, phase := .pLoop })
  | belowTwo (hp : s.phase = .sPre) (hn : s.opn = 0 ∨ s.opn = 1) (ht : t = complete 0 s)
  | twoOrThree (hp : s.phase = .sPre) (hn : s.opn = 2 ∨ s.opn = 3) (ht : t = complete 1 s)
  | splitBegins (hp : s.phase = .sPre) (hn : 4 ≤ s.opn)
      (ht : t = { s with work := { s.work with m := s.opn - 1, k := 0 }, phase := .sSplit })
  | splitHalves (hp : s.phase = .sSplit) (hm : s.work.m % 2 = 0)
      (ht : t = { s with
        work := { s.work with m := s.work.m / 2, k := s.work.k + 1 }, phase := .sSplit })
  | splitEnds (hp : s.phase = .sSplit) (hm : s.work.m % 2 = 1)
      (ht : t = { s with work := { s.work with c := 0 }, phase := .sRound })
  | roundsEnd (hp : s.phase = .sRound) (hc : s.work.c = s.opb) (ht : t = complete 1 s)
  | roundBegins (hp : s.phase = .sRound) (hc : s.work.c ≠ s.opb) (hb : s.opn - 3 ≠ 0)
      (ht : t = { afterDraw (s.opn - 3) s with
        work := { s.work with
          a := nextAnswer (s.opn - 3) s + 2, v := 1, p := nextAnswer (s.opn - 3) s + 2
          i := s.work.m }
        phase := .sPow })
  | witnessPowerEnds (hp : s.phase = .sPow) (hi : s.work.i = 0)
      (ht : t = { s with work := { s.work with y := s.work.v }, phase := .sCheck })
  | witnessPowerIterates (hp : s.phase = .sPow) (hi : s.work.i ≠ 0) (hn : s.opn ≠ 0)
      (ht : t = { s with work := squareMultiply s.opn s.work, phase := .sPow })
  | checkPasses (hp : s.phase = .sCheck) (hy : s.work.y = 1 ∨ s.work.y + 1 = s.opn)
      (ht : t = { s with work := { s.work with c := s.work.c + 1 }, phase := .sRound })
  | squaringBegins (hp : s.phase = .sCheck) (hy : ¬(s.work.y = 1 ∨ s.work.y + 1 = s.opn))
      (ht : t = { s with work := { s.work with j := 1 }, phase := .sSq })
  | squareIsOne (hp : s.phase = .sSq) (hj : s.work.j < s.work.k) (hy : s.work.y + 1 ≠ s.opn)
      (hn : s.opn ≠ 0) (h1 : s.work.y * s.work.y % s.opn = 1)
      (ht : t = complete 0 { s with work := { s.work with y := s.work.y * s.work.y % s.opn } })
  | squares (hp : s.phase = .sSq) (hj : s.work.j < s.work.k) (hy : s.work.y + 1 ≠ s.opn)
      (hn : s.opn ≠ 0) (h1 : s.work.y * s.work.y % s.opn ≠ 1)
      (ht : t = { s with
        work := { s.work with y := s.work.y * s.work.y % s.opn, j := s.work.j + 1 }, phase := .sSq })
  | squaringEnds (hp : s.phase = .sSq) (hj : ¬(s.work.j < s.work.k ∧ s.work.y + 1 ≠ s.opn))
      (ht : t = { s with phase := .sEnd })
  | roundFails (hp : s.phase = .sEnd) (hy : s.work.y + 1 ≠ s.opn) (ht : t = complete 0 s)
  | roundPasses (hp : s.phase = .sEnd) (hy : s.work.y + 1 = s.opn)
      (ht : t = { s with work := { s.work with c := s.work.c + 1 }, phase := .sRound })

/-- A step that takes remainders has a next state only with a modulus. -/
theorem withModulus_eq_next {n : Nat} {o : StepResult} (h : withModulus n o = .next t) :
    n ≠ 0 ∧ o = .next t := by
  by_cases hn : n = 0
  · simp [hn] at h
  · exact ⟨hn, by simpa [hn] using h⟩

/-- Every micro-step that has a next state is one of the cases. -/
theorem microStep_case (h : microStep s = .next t) : MicroCase s t := by
  cases hp : s.phase <;> simp only [microStep, hp] at h
  case gLoop =>
    unfold stepGLoop at h
    split at h <;> cases h
    · exact .gcdEnds hp ‹_› rfl
    · exact .gcdReduces hp ‹_› rfl
  case iLoop =>
    unfold stepILoop at h
    split at h <;> cases h
    · exact .euclidEnds hp ‹_› rfl
    · exact .euclidReduces hp ‹_› rfl
  case iFin =>
    unfold stepIFin at h
    split at h
    · cases h; exact .noInverse hp ‹_› rfl
    · obtain ⟨hn, h⟩ := withModulus_eq_next h
      cases h; exact .inverse hp ‹_› hn rfl
  case pLoop =>
    unfold stepPLoop at h
    split at h
    · cases h; exact .powmodEnds hp ‹_› rfl
    · obtain ⟨hn, h⟩ := withModulus_eq_next h
      cases h; exact .powmodIterates hp ‹_› hn rfl
  case sPre =>
    unfold stepSPre at h
    split at h
    · cases h; exact .belowTwo hp ‹_› rfl
    · split at h <;> cases h
      · exact .twoOrThree hp ‹_› rfl
      · exact .splitBegins hp (by omega) rfl
  case sSplit =>
    unfold stepSSplit at h
    split at h <;> cases h
    · exact .splitHalves hp ‹_› rfl
    · exact .splitEnds hp (by omega) rfl
  case sRound =>
    unfold stepSRound at h
    split at h
    · cases h; exact .roundsEnd hp ‹_› rfl
    · by_cases hb : s.opn - 3 = 0
      · simp [hb] at h
      · rw [randBelow_pos hb] at h
        cases h; exact .roundBegins hp ‹_› hb rfl
  case sPow =>
    unfold stepSPow at h
    split at h
    · cases h; exact .witnessPowerEnds hp ‹_› rfl
    · obtain ⟨hn, h⟩ := withModulus_eq_next h
      cases h; exact .witnessPowerIterates hp ‹_› hn rfl
  case sCheck =>
    unfold stepSCheck at h
    split at h <;> cases h
    · exact .checkPasses hp ‹_› rfl
    · exact .squaringBegins hp ‹_› rfl
  case sSq =>
    unfold stepSSq at h
    split at h
    · next hj =>
      obtain ⟨hn, h⟩ := withModulus_eq_next h
      dsimp only at h
      split at h <;> cases h
      · exact .squareIsOne hp hj.1 hj.2 hn ‹_› rfl
      · exact .squares hp hj.1 hj.2 hn ‹_› rfl
    · cases h; exact .squaringEnds hp ‹_› rfl
  case sEnd =>
    unfold stepSEnd at h
    split at h <;> cases h
    · exact .roundFails hp ‹_› rfl
    · exact .roundPasses hp (by omega) rfl

end Sys2Proof.Machine
end

section
/-! The micro-step seen from outside: its cases are exact, HERR does not steer it, and when it moves NOINV
and the generator. -/

namespace Sys2Proof.Machine

variable {s t : State}

/-- Each case is what the micro-step does under the case's guard. -/
theorem MicroCase.microStep_eq (h : MicroCase s t) : microStep s = .next t := by
  cases h
  case gcdEnds | gcdReduces => simp [microStep, stepGLoop, *]
  case euclidEnds | euclidReduces => simp [microStep, stepILoop, *]
  case noInverse | inverse => simp [microStep, stepIFin, *]
  case powmodEnds | powmodIterates => simp [microStep, stepPLoop, *]
  case belowTwo => simp [microStep, stepSPre, *]
  case twoOrThree hp hn ht =>
    have h01 : ¬(s.opn = 0 ∨ s.opn = 1) := by omega
    simp only [microStep, hp, stepSPre, if_neg h01, if_pos hn, ht]
  case splitBegins hp hn ht =>
    have h01 : ¬(s.opn = 0 ∨ s.opn = 1) := by omega
    have h23 : ¬(s.opn = 2 ∨ s.opn = 3) := by omega
    simp only [microStep, hp, stepSPre, if_neg h01, if_neg h23, ht]
  case splitHalves | splitEnds => simp [microStep, stepSSplit, *]
  case roundsEnd | roundBegins => simp [microStep, stepSRound, isprimeOperands, *]
  case witnessPowerEnds | witnessPowerIterates => simp [microStep, stepSPow, *]
  case checkPasses | squaringBegins => simp [microStep, stepSCheck, *]
  case squareIsOne | squares | squaringEnds => simp [microStep, stepSSq, *]
  case roundFails | roundPasses => simp [microStep, stepSEnd, *]

/-- Setting HERR changes neither which micro-step is taken nor what it computes (R29). -/
theorem MicroCase.dropWrite (h : MicroCase s t) : MicroCase (dropWrite s) (dropWrite t) := by
  cases h <;> subst t
  case gcdEnds hp hgb => exact .gcdEnds hp hgb rfl
  case gcdReduces hp hgb => exact .gcdReduces hp hgb rfl
  case euclidEnds hp hr => exact .euclidEnds hp hr rfl
  case euclidReduces hp hr => exact .euclidReduces hp hr rfl
  case noInverse hp hr => exact .noInverse hp hr rfl
  case inverse hp hr hn => exact .inverse hp hr hn rfl
  case powmodEnds hp hi => exact .powmodEnds hp hi rfl
  case powmodIterates hp hi hn => exact .powmodIterates hp hi hn rfl
  case belowTwo hp hn => exact .belowTwo hp hn rfl
  case twoOrThree hp hn => exact .twoOrThree hp hn rfl
  case splitBegins hp hn => exact .splitBegins hp hn rfl
  case splitHalves hp hm => exact .splitHalves hp hm rfl
  case splitEnds hp hm => exact .splitEnds hp hm rfl
  case roundsEnd hp hc => exact .roundsEnd hp hc rfl
  case roundBegins hp hc hb => exact .roundBegins hp hc hb rfl
  case witnessPowerEnds hp hi => exact .witnessPowerEnds hp hi rfl
  case witnessPowerIterates hp hi hn => exact .witnessPowerIterates hp hi hn rfl
  case checkPasses hp hy => exact .checkPasses hp hy rfl
  case squaringBegins hp hy => exact .squaringBegins hp hy rfl
  case squareIsOne hp hj hy hn h1 => exact .squareIsOne hp hj hy hn h1 rfl
  case squares hp hj hy hn h1 => exact .squares hp hj hy hn h1 rfl
  case squaringEnds hp hj => exact .squaringEnds hp hj rfl
  case roundFails hp hy => exact .roundFails hp hy rfl
  case roundPasses hp hy => exact .roundPasses hp hy rfl

theorem engineTurn_dropWrite (h : engineTurn s = .next t) :
    engineTurn (dropWrite s) = .next (dropWrite t) := by
  rcases engineTurn_cases h with ⟨hb, rfl⟩ | ⟨hb, hm⟩
  · exact engineTurn_still hb
  · rw [engineTurn_busy (s := dropWrite s) hb]
    exact (microStep_case hm).dropWrite.microStep_eq

/-- Any number of turns with HERR set gives what the turns without it give, HERR apart (R29). -/
theorem engineRun_dropWrite (n : Nat) (h : engineRun n s = .next t) :
    engineRun n (dropWrite s) = .next (dropWrite t) := by
  induction n generalizing s with
  | zero => cases h; rfl
  | succ n ih =>
    cases hu : engineTurn s with
    | next u =>
      rw [engineRun_succ hu] at h
      rw [engineRun_succ (engineTurn_dropWrite hu)]
      exact ih h
    | fault r => simp [engineRun, hu] at h
    | refused r => simp [engineRun, hu] at h

/-- The micro-step at I_FIN on r > 1 is the one that sets NOINV; every other leaves it (R28). -/
theorem MicroCase.noinv (h : MicroCase s t) :
    s.phase = .iFin ∧ 1 < s.work.r ∧ t = complete 0 (raiseNoinv s) ∨
    ¬(s.phase = .iFin ∧ 1 < s.work.r) ∧ t.noinv = s.noinv := by
  cases h
  case noInverse hp hr ht => exact .inl ⟨hp, hr, ht⟩
  all_goals exact .inr (by simp [*])

/-- The micro-step that begins a round is the one that draws; every other leaves the generator (R155). -/
theorem MicroCase.generator (h : MicroCase s t) :
    s.phase = .sRound ∧ t.requests = (s.opn - 3) :: s.requests ∧ t.answers = s.answers.tail ∨
    t.requests = s.requests ∧ t.answers = s.answers := by
  cases h
  case roundBegins hp _ _ ht => exact .inl ⟨hp, by simp [ht], by simp [ht]⟩
  all_goals exact .inr (by simp [*])

end Sys2Proof.Machine
end

section
/-! The invariant: what does not touch it, the reset state, and what starting a command loads. -/

namespace Sys2Proof.Machine

variable {s t : State}

/-- The control invariant speaks of STATE, RES, NOINV, LASTOP and CAUSE only. -/
theorem State.ControlInv.congr (h : s.ControlInv) (hstate : t.state = s.state) (hres : t.res = s.res)
    (hnoinv : t.noinv = s.noinv) (hlastop : t.lastop = s.lastop) (hcause : t.cause = s.cause) :
    t.ControlInv where
  cause_iff := by rw [hcause, hstate]; exact h.cause_iff
  res_zero := by rw [hstate, hres]; exact h.res_zero
  noinv_done := by rw [hnoinv, hstate, hres, hlastop]; exact h.noinv_done
  lastop_legal := by rw [hlastop]; exact h.lastop_legal
  idle_lastop := by rw [hstate, hlastop]; exact h.idle_lastop
  done_lastop := by rw [hstate, hlastop]; exact h.done_lastop
  isprime_bool := by rw [hstate, hlastop, hres]; exact h.isprime_bool

/-- HERR, the pending events, the observations and the generator are free under the invariant. -/
theorem State.Inv.environment (h : s.Inv) (herr : Bool) (schedule : List Event)
    (seen : List Observation) (answers requests : List Nat) :
    State.Inv { s with
      herr := herr, schedule := schedule, seen := seen, answers := answers, requests := requests } :=
  ⟨h.control.congr rfl rfl rfl rfl rfl, h.running⟩

theorem State.ControlInv.inv_of_not_busy (h : s.ControlInv) (hb : s.state ≠ .busy) : s.Inv :=
  ⟨h, fun hbusy => absurd hbusy hb⟩

/-! ### Control state -/

theorem State.ControlInv.cause_none (h : s.ControlInv) (hf : s.state ≠ .fault) : s.cause = .none :=
  not_not.1 fun hc => hf (h.cause_iff.1 hc)

theorem State.ControlInv.noinv_false (h : s.ControlInv) (hd : s.state ≠ .done) : s.noinv = false :=
  Bool.eq_false_iff.2 fun hn => hd (h.noinv_done hn).1

theorem ne_fault_of_accepting (ha : accepting s = true) : s.state ≠ .fault := by
  rcases accepting_iff.1 ha with h | h <;> simp [h]

theorem ne_busy_of_accepting (ha : accepting s = true) : s.state ≠ .busy := by
  rcases accepting_iff.1 ha with h | h <;> simp [h]

theorem opcode_toNat_le (i : Instr) : (opcode i).toNat ≤ 4 := by cases i <;> decide

theorem opcode_ne_zero (i : Instr) : opcode i ≠ 0#8 := by cases i <;> decide

theorem opcode_injective : Function.Injective opcode := by
  intro i j; cases i <;> cases j <;> decide

/-- A faulting command word (R304): CAUSE is set, RES and NOINV are 0. -/
theorem State.ControlInv.faulted (h : s.ControlInv) {c : Cause} (hc : c ≠ .none) :
    (raiseFault c (clearOutcome s)).ControlInv := by
  constructor <;> simp [hc, h.lastop_legal]

/-- A command that starts (R85). -/
theorem State.ControlInv.started (h : s.ControlInv) (i : Instr) (hf : s.state ≠ .fault) :
    (startCommand i (clearOutcome s)).ControlInv := by
  constructor <;> simp [h.cause_none hf, opcode_toNat_le]

/-- A command completes with a result that is a verdict when the command is ISPRIME (R33, R165). -/
theorem State.ControlInv.completed {i : Instr} {v : Nat} (h : s.ControlInv) (hb : s.state = .busy)
    (hl : s.lastop = opcode i) (hv : i = .isprime → v ≤ 1) : (complete v s).ControlInv := by
  have hcause : s.cause = .none := h.cause_none (by simp [hb])
  have hnoinv : s.noinv = false := h.noinv_false (by simp [hb])
  constructor <;> simp only [complete_cause, complete_state, complete_res, complete_noinv,
    complete_lastop, hcause, hnoinv, hl]
  · simp
  · simp
  · simp
  · exact opcode_toNat_le i
  · simp
  · exact fun _ => opcode_ne_zero i
  · exact fun _ hi => hv (opcode_injective hi)

/-- MODINV completes without an inverse (R117). -/
theorem State.ControlInv.completed_noInverse (h : s.ControlInv) (hb : s.state = .busy)
    (hl : s.lastop = opcode .modinv) : (complete 0 (raiseNoinv s)).ControlInv := by
  have hcause : s.cause = .none := h.cause_none (by simp [hb])
  constructor <;> simp [hcause, hl]

theorem State.ControlInv.reset : State.reset.ControlInv := by
  constructor <;> simp

/-! ### Starting a command -/

@[simp] theorem acceptCommand_opa (i : Instr) (s : State) : (acceptCommand i s).opa = s.opa := by
  cases i <;> rfl
@[simp] theorem acceptCommand_opb (i : Instr) (s : State) : (acceptCommand i s).opb = s.opb := by
  cases i <;> rfl
@[simp] theorem acceptCommand_opn (i : Instr) (s : State) : (acceptCommand i s).opn = s.opn := by
  cases i <;> rfl
@[simp] theorem acceptCommand_res (i : Instr) (s : State) : (acceptCommand i s).res = s.res := by
  cases i <;> rfl
@[simp] theorem acceptCommand_lastop (i : Instr) (s : State) :
    (acceptCommand i s).lastop = s.lastop := by cases i <;> rfl
@[simp] theorem acceptCommand_state (i : Instr) (s : State) : (acceptCommand i s).state = s.state := by
  cases i <;> rfl
@[simp] theorem acceptCommand_noinv (i : Instr) (s : State) : (acceptCommand i s).noinv = s.noinv := by
  cases i <;> rfl
@[simp] theorem acceptCommand_herr (i : Instr) (s : State) : (acceptCommand i s).herr = s.herr := by
  cases i <;> rfl
@[simp] theorem acceptCommand_cause (i : Instr) (s : State) : (acceptCommand i s).cause = s.cause := by
  cases i <;> rfl
@[simp] theorem acceptCommand_schedule (i : Instr) (s : State) :
    (acceptCommand i s).schedule = s.schedule := by cases i <;> rfl
@[simp] theorem acceptCommand_seen (i : Instr) (s : State) : (acceptCommand i s).seen = s.seen := by
  cases i <;> rfl
@[simp] theorem acceptCommand_answers (i : Instr) (s : State) :
    (acceptCommand i s).answers = s.answers := by cases i <;> rfl
@[simp] theorem acceptCommand_requests (i : Instr) (s : State) :
    (acceptCommand i s).requests = s.requests := by cases i <;> rfl

/-- A command starts in a phase of its own (R30). -/
@[simp] theorem acceptCommand_phase_command (i : Instr) (s : State) :
    (acceptCommand i s).phase.command = i := by cases i <;> rfl

/-- What accepting a command loads satisfies the invariant of its first phase (R101, R113, R132, R152). -/
theorem acceptCommand_phaseInv (i : Instr) (s : State)
    (hn : i = .modinv ∨ i = .powmod → s.opn ≠ 0) : PhaseInv (acceptCommand i s) := by
  cases i
  case gcd => exact rfl
  case modinv =>
    have hpos : 1 ≤ s.opn := Nat.one_le_iff_ne_zero.2 (hn (.inl rfl))
    exact ⟨hpos, by simp [acceptCommand], by simp [acceptCommand], rfl⟩
  case powmod =>
    have hpos : 1 ≤ s.opn := Nat.one_le_iff_ne_zero.2 (hn (.inr rfl))
    exact ⟨hpos, by simp [acceptCommand], .inr ⟨rfl, id⟩, fun hb => ⟨rfl, hb⟩⟩
  case isprime => exact trivial

/-- A started command satisfies the invariant. -/
theorem State.Inv.started (h : s.Inv) (i : Instr) (hf : s.state ≠ .fault)
    (hn : i = .modinv ∨ i = .powmod → s.opn ≠ 0) :
    (acceptCommand i (startCommand i (clearOutcome s))).Inv where
  control := (h.control.started i hf).congr (by simp) (by simp) (by simp) (by simp) (by simp)
  running _ := ⟨by simp, acceptCommand_phaseInv i _ hn⟩

/-- Settles O35, from the control invariant of the reset state: no command runs in it. -/
theorem invariantHoldsAtReset : Obligations.InvariantHoldsAtReset :=
  State.ControlInv.reset.inv_of_not_busy (by simp)

end Sys2Proof.Machine
end

section
/-! Every micro-step keeps the invariant of the running command (R103, R112, R134, R154, R161). -/

namespace Sys2Proof.Machine

variable {s t : State}

/-! ### The arithmetic of the micro-steps -/

/-- Euclid's step keeps the greatest common divisor (R103). -/
theorem gcd_euclid_step (a b : Nat) : Nat.gcd b (a % b) = Nat.gcd a b :=
  calc Nat.gcd b (a % b) = Nat.gcd (a % b) b := Nat.gcd_comm _ _
    _ = Nat.gcd b a := (Nat.gcd_rec b a).symm
    _ = Nat.gcd a b := Nat.gcd_comm _ _

/-- The remainder r − q·r′ of R114. -/
theorem reduceModinv_r_prime_eq_mod (w : Work) : (reduceModinv w).r' = w.r % w.r' := by
  rw [reduceModinv_r_prime, Nat.mod_eq_sub_div_mul]

/-- Euclid's step with its coefficients keeps Bézout's equations (R112). -/
theorem ModinvInv.reduce (h : ModinvInv s) (ph : Phase) :
    ModinvInv { s with work := reduceModinv s.work, phase := ph } := by
  obtain ⟨hn, hr, hr', hg⟩ := h
  have hsub : ((s.work.r - s.work.r / s.work.r' * s.work.r' : Nat) : Int) =
      s.work.r - (s.work.r / s.work.r' : Nat) * s.work.r' := by
    rw [Nat.cast_sub (Nat.div_mul_le_self _ _), Nat.cast_mul]
  refine ⟨hn, hr', ?_, ?_⟩
  · simp only [reduceModinv_r_prime, reduceModinv_s_prime, reduceModinv_t_prime]
    rw [hsub]
    linear_combination hr - (s.work.r / s.work.r' : Nat) * hr'
  · show Nat.gcd s.work.r' (reduceModinv s.work).r' = _
    rw [reduceModinv_r_prime_eq_mod, gcd_euclid_step, hg]

/-- An accumulator below the modulus stays below it. -/
theorem squareMultiply_v_lt {n : Nat} {w : Work} (hn : n ≠ 0) (hv : w.v < n) :
    (squareMultiply n w).v < n := by
  rw [squareMultiply_v]
  split
  · exact Nat.mod_lt _ (Nat.pos_of_ne_zero hn)
  · exact hv

/-- Square-and-multiply keeps POWMOD's invariant while the exponent is not 0 (R134). -/
theorem PowmodInv.iterate (h : PowmodInv s) (hi : s.work.i ≠ 0) (ph : Phase) :
    PowmodInv { s with work := squareMultiply s.opn s.work, phase := ph } := by
  obtain ⟨hn, hpow, hv, hb⟩ := h
  refine ⟨hn, (squareMultiply_modEq s.opn s.work).trans hpow, ?_, fun h0 => absurd (hb h0).2 hi⟩
  rcases hv with hv | ⟨hv, -⟩
  · exact .inl (squareMultiply_v_lt (by omega) hv)
  · rcases Nat.mod_two_eq_zero_or_one s.work.i with h2 | h2
    · refine .inr ⟨by simp [h2, hv], fun h0 => absurd h0 ?_⟩
      simp only [squareMultiply_i]
      omega
    · exact .inl (by simpa [h2] using Nat.mod_lt _ (by omega))

/-- Halving an even m keeps OPN − 1 = 2^k · m (R154). -/
theorem SplitInv.halve (h : SplitInv s) (hm : s.work.m % 2 = 0) (ph : Phase) :
    SplitInv { s with
      work := { s.work with m := s.work.m / 2, k := s.work.k + 1 }, phase := ph } := by
  obtain ⟨hn, hsplit⟩ := h
  refine ⟨hn, hsplit.trans ?_⟩
  have h2 : 2 * (s.work.m / 2) = s.work.m := Nat.mul_div_cancel' (Nat.dvd_of_mod_eq_zero hm)
  simp only [pow_succ, mul_assoc, h2]

/-- The squaring loop ends at OPN − 1, whatever squarings are left (R161). -/
theorem squaringVerdict_of_minus_one {n y : Nat} (left : Nat) (h : y + 1 = n) :
    squaringVerdict n left y = .pass := by
  cases left <;> simp [squaringVerdict, h]

/-- One squaring takes one off the squarings left (R159, R161). -/
theorem squaringVerdict_square {n k j y : Nat} (hj : j < k) (hy : y + 1 ≠ n) (h1 : y * y % n ≠ 1) :
    squaringVerdict n (k - j) y = squaringVerdict n (k - (j + 1)) (y * y % n) := by
  rw [show k - j = k - (j + 1) + 1 by omega, squaringVerdict, if_neg hy, if_neg h1]

/-- When the loop ends the verdict is the comparison with OPN − 1 (R160, R161). -/
theorem squaringVerdict_ends {n k j y : Nat} (h : ¬(j < k ∧ y + 1 ≠ n)) :
    squaringVerdict n (k - j) y = if y + 1 = n then .pass else .composite := by
  by_cases hy : y + 1 = n
  · rw [if_pos hy, squaringVerdict_of_minus_one _ hy]
  · rw [show k - j = 0 by omega, squaringVerdict]

/-- A round that its first power does not pass goes on to the squarings (R158, R161). -/
theorem MRRound_squares {n k m a y : Nat} (hy : y = a ^ m % n) (h : ¬(y = 1 ∨ y + 1 = n)) :
    MRRound n k m a = squaringVerdict n (k - 1) y := by
  subst hy
  rw [MRRound, if_neg h]

/-! ### The rounds -/

/-- A witness drawn while rounds are left begins a round (R155, R156). -/
theorem RoundInv.begin (h : RoundInv s) (hc : s.work.c ≠ s.opb) (hb : s.opn - 3 ≠ 0) :
    2 ≤ nextAnswer (s.opn - 3) s + 2 ∧ nextAnswer (s.opn - 3) s + 2 + 2 ≤ s.opn ∧
      s.work.c < s.opb := by
  obtain ⟨-, -, hle⟩ := h
  have hu := nextAnswer_lt hb s
  omega

/-- A passed round is one more completed round (R158, R160). -/
theorem WitnessInv.pass (h : WitnessInv s) (ph : Phase) :
    RoundInv { s with work := { s.work with c := s.work.c + 1 }, phase := ph } := by
  obtain ⟨hsplit, hodd, hc, -, -⟩ := h
  exact ⟨hsplit, hodd, hc⟩

/-! ### The micro-step -/

/-- A micro-step that goes on stays in its command and keeps the phase's invariant. -/
theorem MicroCase.phaseInv (h : MicroCase s t) (hi : PhaseInv s) (hrun : t.state ≠ .done) :
    t.phase.command = s.phase.command ∧ PhaseInv t := by
  unfold PhaseInv at hi
  cases h
  case gcdEnds | noInverse | inverse | powmodEnds | belowTwo | twoOrThree | roundsEnd | squareIsOne
      | roundFails => simp [*] at hrun
  case gcdReduces hp hgb ht =>
    rw [hp] at hi; subst t
    exact ⟨by rw [hp], (gcd_euclid_step _ _).trans hi⟩
  case euclidEnds hp hr ht =>
    rw [hp] at hi; subst t
    exact ⟨by rw [hp]; rfl, hi, hr⟩
  case euclidReduces hp hr ht =>
    rw [hp] at hi; subst t
    exact ⟨by rw [hp], hi.reduce _⟩
  case powmodIterates hp hne hn ht =>
    rw [hp] at hi; subst t
    exact ⟨by rw [hp], hi.iterate hne _⟩
  case splitBegins hp hn ht =>
    subst t
    refine ⟨by rw [hp]; rfl, hn, ?_⟩
    simp only [pow_zero, one_mul]
    omega
  case splitHalves hp hm ht =>
    rw [hp] at hi; subst t
    exact ⟨by rw [hp], hi.halve hm _⟩
  case splitEnds hp hm ht =>
    rw [hp] at hi; subst t
    exact ⟨by rw [hp]; rfl, hi, hm, Nat.zero_le _⟩
  case roundBegins hp hc hb ht =>
    rw [hp] at hi; subst t
    obtain ⟨ha, ha', hlt⟩ := hi.begin hc hb
    obtain ⟨hsplit, hodd, -⟩ := hi
    refine ⟨by rw [hp]; rfl, ⟨hsplit, hodd, hlt, ha, ha'⟩, ?_, ?_⟩
    · show 1 < s.opn
      omega
    · simp
  case witnessPowerEnds hp hi0 ht =>
    rw [hp] at hi; subst t
    obtain ⟨hwit, hv, hpow⟩ := hi
    refine ⟨by rw [hp]; rfl, hwit, ?_⟩
    simpa [hi0, Nat.mod_eq_of_lt hv] using hpow
  case witnessPowerIterates hp hne hn ht =>
    rw [hp] at hi; subst t
    obtain ⟨hwit, hv, hpow⟩ := hi
    exact ⟨by rw [hp], hwit, squareMultiply_v_lt hn hv,
      (squareMultiply_modEq s.opn s.work).trans hpow⟩
  case checkPasses hp hy ht =>
    rw [hp] at hi; subst t
    exact ⟨by rw [hp]; rfl, hi.1.pass _⟩
  case squaringBegins hp hy ht =>
    rw [hp] at hi; subst t
    obtain ⟨hwit, hpow⟩ := hi
    have hn : 0 < s.opn := by have := hwit.1.1; omega
    exact ⟨by rw [hp]; rfl, hwit, le_rfl, hpow ▸ Nat.mod_lt _ hn, MRRound_squares hpow hy⟩
  case squares hp hj hy hn h1 ht =>
    rw [hp] at hi; subst t
    obtain ⟨hwit, hj1, -, hround⟩ := hi
    exact ⟨by rw [hp], hwit, Nat.le_succ_of_le hj1, Nat.mod_lt _ (Nat.pos_of_ne_zero hn),
      hround.trans (squaringVerdict_square hj hy h1)⟩
  case squaringEnds hp hj ht =>
    rw [hp] at hi; subst t
    obtain ⟨hwit, -, -, hround⟩ := hi
    exact ⟨by rw [hp]; rfl, hwit, hround.trans (squaringVerdict_ends hj)⟩
  case roundPasses hp hy ht =>
    rw [hp] at hi; subst t
    exact ⟨by rw [hp]; rfl, hi.1.pass _⟩

/-- A micro-step of a running command keeps the control invariant: it goes on with the control state as
it was, or completes with a result its command allows. -/
theorem MicroCase.controlInv (h : MicroCase s t) (hc : s.ControlInv) (hb : s.state = .busy)
    (hl : s.lastop = opcode s.phase.command) : t.ControlInv := by
  cases h
  case gcdEnds hp _ ht => subst t; exact hc.completed hb hl (by simp [hp, Phase.command])
  case noInverse hp _ ht => subst t; exact hc.completed_noInverse hb (by rw [hl, hp]; rfl)
  case inverse hp _ _ ht => subst t; exact hc.completed hb hl (by simp [hp, Phase.command])
  case powmodEnds hp _ ht => subst t; exact hc.completed hb hl (by simp [hp, Phase.command])
  case belowTwo ht => subst t; exact hc.completed hb hl (by simp)
  case twoOrThree ht => subst t; exact hc.completed hb hl (by simp)
  case roundsEnd ht => subst t; exact hc.completed hb hl (by simp)
  case squareIsOne ht =>
    subst t
    exact State.ControlInv.completed (hc.congr rfl rfl rfl rfl rfl) hb hl (by simp)
  case roundFails ht => subst t; exact hc.completed hb hl (by simp)
  all_goals subst t; exact hc.congr rfl rfl rfl rfl rfl

/-- Every micro-step of a running command keeps the invariant. -/
theorem State.Inv.microStep (h : s.Inv) (hb : s.state = .busy) (hm : microStep s = .next t) :
    t.Inv := by
  obtain ⟨hl, hi⟩ := h.running hb
  refine ⟨(microStep_case hm).controlInv h.control hb hl, fun hbt => ?_⟩
  obtain ⟨hcmd, hti⟩ := (microStep_case hm).phaseInv hi (by simp [hbt])
  exact ⟨by rw [(microStep_frame hm).1.lastop, hl, hcmd], hti⟩

/-- Settles O36, by the cases of the step: a micro-step keeps its phase's invariant, a command starts with
the invariant of its first phase, and every other event leaves or ends the running command. -/
theorem everyStepKeepsTheInvariant : Obligations.EveryStepKeepsTheInvariant := by
  intro s t h hstep
  have henv : ∀ rest, State.Inv { s with schedule := rest } := fun rest =>
    h.environment s.herr rest s.seen s.answers s.requests
  cases step_case hstep with
  | stillTurn rest _ _ ht => subst t; exact henv rest
  | micro rest _ hb hm => exact (henv rest).microStep hb hm
  | dropped _ _ rest _ _ ht => subst t; exact h.environment _ rest _ _ _
  | wroteOpa _ _ _ ha ht | wroteOpb _ _ _ ha ht | wroteOpn _ _ _ ha ht =>
    subst t
    exact State.ControlInv.inv_of_not_busy (h.control.congr rfl rfl rfl rfl rfl)
      (ne_busy_of_accepting ha)
  | illegal _ rest _ _ _ ht | modZero _ rest _ _ _ _ ht =>
    subst t
    exact ((henv rest).control.faulted (by simp)).inv_of_not_busy (by simp)
  | started i rest _ ha hn ht =>
    subst t
    exact (henv rest).started i (ne_fault_of_accepting ha) hn
  | read _ rest _ ht | wait rest _ ht | draw _ rest _ _ ht =>
    subst t
    exact h.environment _ _ _ _ _
  | reset rest _ ht =>
    subst t
    exact invariantHoldsAtReset.environment _ _ _ _ _

end Sys2Proof.Machine
end

section
/-! The STATUS byte, dropped writes, Reset, and the generator that host and engine share. -/

namespace Sys2Proof.Machine

variable {s t : State}

/-! ### The STATUS byte -/

/-- The four fields of STATUS and the widths they have there (R26). -/
theorem status_fields_le (s : State) :
    s.state.code ≤ 3 ∧ s.noinv.toNat ≤ 1 ∧ s.herr.toNat ≤ 1 ∧ s.cause.code ≤ 2 :=
  ⟨by cases s.state <;> decide, Bool.toNat_le _, Bool.toNat_le _, by cases s.cause <;> decide⟩

/-- The sum of R26 fits the byte, so nothing is lost in it. -/
theorem statusByte_toNat (s : State) : (statusByte s).toNat =
    s.state.code + 4 * s.noinv.toNat + 8 * s.herr.toNat + 16 * s.cause.code := by
  obtain ⟨hr, hn, hh, hc⟩ := status_fields_le s
  rw [statusByte, BitVec.toNat_ofNat]
  exact Nat.mod_eq_of_lt (by omega)

/-- A two-bit field of STATUS is read off the byte's value by division. -/
theorem statusByte_extractLsb_toNat (s : State) (lo : Nat) :
    ((statusByte s).extractLsb (lo + 1) lo).toNat = (statusByte s).toNat / 2 ^ lo % 4 := by
  rw [BitVec.extractLsb_toNat, Nat.shiftRight_eq_div_pow, show lo + 1 - lo + 1 = 2 by omega]

theorem statusByte_state (s : State) :
    (statusByte s).extractLsb 1 0 = BitVec.ofNat 2 s.state.code := by
  obtain ⟨hr, -, -, -⟩ := status_fields_le s
  apply BitVec.eq_of_toNat_eq
  rw [statusByte_extractLsb_toNat s 0, statusByte_toNat, BitVec.toNat_ofNat]
  omega

theorem statusByte_cause (s : State) :
    (statusByte s).extractLsb 5 4 = BitVec.ofNat 2 s.cause.code := by
  obtain ⟨hr, hn, hh, -⟩ := status_fields_le s
  apply BitVec.eq_of_toNat_eq
  rw [statusByte_extractLsb_toNat s 4, statusByte_toNat, BitVec.toNat_ofNat]
  omega

theorem statusByte_reserved (s : State) : (statusByte s).extractLsb 7 6 = 0#2 := by
  obtain ⟨hr, hn, hh, hc⟩ := status_fields_le s
  apply BitVec.eq_of_toNat_eq
  rw [statusByte_extractLsb_toNat s 6, statusByte_toNat, BitVec.toNat_ofNat]
  omega

/-- A flag of STATUS is read off the byte's value by division. -/
theorem statusByte_getLsbD {i : Nat} {b : Bool} (h : (statusByte s).toNat / 2 ^ i % 2 = b.toNat) :
    (statusByte s).getLsbD i = b := by
  rw [BitVec.getLsbD, Nat.testBit_eq_decide_div_mod_eq, h]
  cases b <;> rfl

theorem statusByte_noinv (s : State) : (statusByte s).getLsbD 2 = s.noinv := by
  obtain ⟨hr, hn, -, -⟩ := status_fields_le s
  exact statusByte_getLsbD (by rw [statusByte_toNat]; omega)

theorem statusByte_herr (s : State) : (statusByte s).getLsbD 3 = s.herr := by
  obtain ⟨hr, hn, hh, -⟩ := status_fields_le s
  exact statusByte_getLsbD (by rw [statusByte_toNat]; omega)

/-- CAUSE reads 0 in STATUS exactly when there is none (R31). -/
theorem statusByte_cause_eq_zero_iff (s : State) :
    (statusByte s).extractLsb 5 4 = 0#2 ↔ s.cause = .none := by
  rw [statusByte_cause]
  cases s.cause <;> decide

@[simp] theorem statusByte_reset : statusByte State.reset = 0#8 := rfl

@[simp] theorem statusByte_resetEngine (s : State) : statusByte (resetEngine s) = 0#8 := rfl

/-! ### Dropped writes -/

theorem exec_dropped (ha : accepting s = false) (i : Instr) : exec i s = .next (dropWrite s) := by
  cases i <;> simp [exec, execGcd, execModinv, execPowmod, execIsprime, ha]

theorem commandWrite_dropped (ha : accepting s = false) (w : Nat) :
    commandWrite w s = .next (dropWrite s) := by
  unfold commandWrite
  split
  · exact exec_dropped ha _
  · exact issue_dropped ha _

/-- In BUSY and FAULT a write to any register is dropped (R84). -/
theorem registerWrite_dropped (ha : accepting s = false) (reg : PortRegister) (v : Nat) :
    registerWrite reg v s = .next (dropWrite s) := by
  cases reg
  case cmd => exact commandWrite_dropped ha v
  case opa | opb | opn => simp [registerWrite, operandWrite, ha]
  case status | res | reserved => rfl

/-- A dropped write sets HERR and changes nothing else (R84). -/
theorem step_of_dropped {addr : PortAddr} {v : Nat} {rest : List Event}
    (hs : s.schedule = .write addr v :: rest)
    (hd : s.state = .busy ∨ s.state = .fault ∨ addr = 1#3 ∨ addr = 5#3 ∨ addr = 6#3 ∨ addr = 7#3) :
    step s = .next { s with schedule := rest, herr := true } := by
  rw [step_of_write hs]
  rcases hd with hb | hf | rfl | rfl | rfl | rfl
  · have ha : accepting { s with schedule := rest } = false := not_accepting_iff.2 (.inl hb)
    exact registerWrite_dropped ha _ v
  · have ha : accepting { s with schedule := rest } = false := not_accepting_iff.2 (.inr hf)
    exact registerWrite_dropped ha _ v
  all_goals rfl

/-- Settles O7, from the value of the byte, and from what a write to address 1 and a read of it do. -/
theorem statusByteHasTheSpecifiedLayout : Obligations.StatusByteHasTheSpecifiedLayout := by
  refine ⟨fun s => ?_, rfl, rfl, rfl, rfl, rfl, rfl, rfl, statusByte_reset, ?_, ?_⟩
  · exact ⟨statusByte_toNat s, statusByte_state s, statusByte_noinv s, statusByte_herr s,
      statusByte_cause s, (status_fields_le s).2.2.2, statusByte_reserved s⟩
  · intro s v rest hs
    exact step_of_dropped hs (by simp)
  · intro s rest hs
    exact step_of_cons hs

/-! ### Reset, and what the port reads after a step -/

theorem step_of_reset {rest : List Event} (hs : s.schedule = .reset :: rest) :
    step s = .next (resetEngine { s with schedule := rest }) :=
  step_of_cons hs

/-- Settles O5, from the reset values of the state and the engine's turn in IDLE. -/
theorem resetLeavesTheListedValues : Obligations.ResetLeavesTheListedValues := by
  refine ⟨fun s rest hs => ⟨_, step_of_reset hs, ?_⟩, ?_⟩
  · simp
  · have hturn : step State.reset = .next State.reset :=
      (step_of_nil rfl).trans (engineTurn_still (by simp))
    simp [hturn]

/-- Settles O38, from the control invariant of the next state and the layout of STATUS. -/
theorem outcomeRegistersReadAsTheirStateSays :
    Obligations.OutcomeRegistersReadAsTheirStateSays := by
  intro s t hs hstep
  have ht : t.ControlInv := (everyStepKeepsTheInvariant s t hs hstep).control
  refine ⟨fun hstate => ?_, fun hf => ?_, fun hf => ?_, statusByte_reserved t, ht.lastop_legal⟩
  · have hd : t.state ≠ .done := by rcases hstate with h | h | h <;> simp [h]
    exact ⟨ht.res_zero hd, by rw [statusByte_noinv, ht.noinv_false hd]⟩
  · exact (statusByte_cause_eq_zero_iff t).2 (ht.cause_none hf)
  · exact fun h0 => ht.cause_iff.2 hf ((statusByte_cause_eq_zero_iff t).1 h0)

/-! ### The generator -/

/-- A draw of the host's takes the generator's next answer and puts the request on record (R44, R354). -/
theorem step_of_hostDraw {b : Nat} {rest : List Event} (hs : s.schedule = .hostDraw b :: rest)
    (hb : b ≠ 0) :
    step s = .next { s with
      schedule := rest, seen := .draw b (nextAnswer b s) :: s.seen, answers := s.answers.tail
      requests := b :: s.requests } := by
  rw [step_of_cons hs, act, hostDraw, randBelow_pos hb]
  rfl

/-- The answer listed first is the next one, when it is below the bound (R12). -/
theorem nextAnswer_listed {b u : Nat} (hu : u < b) (s : State) (more : List Nat) :
    nextAnswer b { s with answers := u :: more } = u :=
  Nat.mod_eq_of_lt hu

/-- A step that moves the generator is a host draw or the micro-step that begins a round. -/
theorem step_generator (h : step s = .next t)
    (hg : t.requests ≠ s.requests ∨ t.answers ≠ s.answers) :
    (∃ b rest, s.schedule = .hostDraw b :: rest) ∨
    s.state = .busy ∧ s.phase = .sRound ∧
      (s.schedule = [] ∨ ∃ rest, s.schedule = .engine :: rest) ∧
      t.requests = (s.opn - 3) :: s.requests ∧ t.answers = s.answers.tail := by
  cases step_case h with
  | draw b rest hs _ _ => exact .inl ⟨b, rest, hs⟩
  | micro rest hs hb hm =>
    rcases (microStep_case hm).generator with ⟨hp, hreq, hans⟩ | ⟨hreq, hans⟩
    · exact .inr ⟨hb, hp, hs.imp And.left fun h => ⟨rest, h⟩, hreq, hans⟩
    · simp [hreq, hans] at hg
  | stillTurn _ _ _ ht | dropped _ _ _ _ _ ht | wroteOpa _ _ _ _ ht | wroteOpb _ _ _ _ ht
  | wroteOpn _ _ _ _ ht | illegal _ _ _ _ _ ht | modZero _ _ _ _ _ _ ht | started _ _ _ _ _ ht
  | read _ _ _ ht | wait _ _ ht | reset _ _ ht => simp [ht] at hg

/-- Settles O41, from what a host draw does and from which steps move the generator. -/
theorem generatorIsSharedAndNotReset : Obligations.GeneratorIsSharedAndNotReset := by
  refine ⟨fun s b rest hs hb => ⟨nextAnswer_lt hb s, step_of_hostDraw hs hb, ?_⟩,
    fun s t h hg => step_generator h hg⟩
  intro u hu more
  have hstep := step_of_hostDraw (s := { s with answers := u :: more }) hs hb
  rw [nextAnswer_listed hu] at hstep
  exact hstep

end Sys2Proof.Machine
end

section
/-! Who writes STATE, HERR, NOINV, the operand registers, RES and LASTOP, by the events of the step. -/

namespace Sys2Proof.Machine

variable {s t : State}

/-! ### Steps by their event -/

/-- A turn of the engine is a step, whether it is pending or nothing is. -/
theorem step_of_turn (hs : s.schedule = [] ∨ ∃ rest, s.schedule = .engine :: rest) :
    ∃ rest, step s = engineTurn { s with schedule := rest } := by
  rcases hs with hs | ⟨rest, hs⟩
  · exact ⟨s.schedule, step_of_nil hs⟩
  · exact ⟨rest, step_of_engine hs⟩

/-- A turn of the engine is no event of the host's. -/
theorem schedule_ne_of_turn {e : Event} {rest rest' : List Event}
    (hturn : s.schedule = [] ∧ rest = [] ∨ s.schedule = .engine :: rest) (he : e ≠ .engine) :
    s.schedule ≠ e :: rest' := by
  rcases hturn with ⟨hs, -⟩ | hs <;> simp [hs, he.symm]

/-- One poll of `wait` tells the host STATUS and, while BUSY, gives the engine a turn (R91; log 7). -/
theorem step_of_wait {rest : List Event} (hs : s.schedule = .wait :: rest) :
    step s = .next { s with
      schedule := if s.state = .busy then .engine :: .wait :: rest else rest
      seen := .read 1#3 (statusByte s).toNat :: s.seen } := by
  rw [step_of_cons hs]
  cases hb : s.state <;>
    simp [act, hostWait, observe, portValue, portRegister, registerValue, statusByte, hb]

/-- A host draw that has a next state is from a range that is not empty (R12). -/
theorem hostDraw_bound_ne_zero {b : Nat} {rest : List Event} (h : step s = .next t)
    (hs : s.schedule = .hostDraw b :: rest) : b ≠ 0 := by
  rintro rfl
  rw [step_of_cons hs, act, hostDraw, randBelow_zero] at h
  cases h

/-! ### STATE -/

theorem encodeWord_mem (i : Instr) : encodeWord i ∈ [1, 2, 3, 4] := by cases i <;> decide

/-- The commands with an operand check (R85). -/
theorem encodeWord_mem_modulus_iff (i : Instr) :
    encodeWord i ∈ [2, 3] ↔ i = .modinv ∨ i = .powmod := by cases i <;> decide

/-- The run state after a write: only a command word in IDLE or DONE changes it (R27). -/
theorem step_state_of_write {addr : PortAddr} {v : Nat} {rest : List Event} (h : step s = .next t)
    (hs : s.schedule = .write addr v :: rest) :
    t.state =
      if addr = 0#3 ∧ (s.state = .idle ∨ s.state = .done) then
        if v ∈ [1, 2, 3, 4] ∧ ¬(v ∈ [2, 3] ∧ s.opn = 0) then .busy else .fault
      else s.state := by
  cases step_case h with
  | stillTurn rest' hturn _ _ | micro rest' hturn _ _ =>
    exact absurd hs (schedule_ne_of_turn hturn (by simp))
  | dropped addr' v' rest' hs' hd ht =>
    rw [hs] at hs'; cases hs'
    have hno : ¬(addr = 0#3 ∧ (s.state = .idle ∨ s.state = .done)) := by
      rintro ⟨rfl, ha⟩
      simp [accepting_iff.2 ha] at hd
    rw [if_neg hno, ht]
  | wroteOpa v' rest' hs' _ ht | wroteOpb v' rest' hs' _ ht | wroteOpn v' rest' hs' _ ht =>
    rw [hs] at hs'; cases hs'
    rw [if_neg (by simp), ht]
  | illegal w rest' hs' ha hw ht =>
    rw [hs] at hs'; cases hs'
    rw [if_pos ⟨rfl, accepting_iff.1 ha⟩, if_neg fun hgo => hw hgo.1, ht]
  | modZero i rest' hs' ha hi hn ht =>
    rw [hs] at hs'; cases hs'
    have hzero : encodeWord i ∈ [2, 3] ∧ s.opn = 0 := ⟨(encodeWord_mem_modulus_iff i).2 hi, hn⟩
    rw [if_pos ⟨rfl, accepting_iff.1 ha⟩, if_neg fun hgo => hgo.2 hzero, ht]
  | started i rest' hs' ha hn ht =>
    rw [hs] at hs'; cases hs'
    have hcheck : ¬(encodeWord i ∈ [2, 3] ∧ s.opn = 0) := fun hzero =>
      hn ((encodeWord_mem_modulus_iff i).1 hzero.1) hzero.2
    rw [if_pos ⟨rfl, accepting_iff.1 ha⟩, if_pos ⟨encodeWord_mem i, hcheck⟩, ht,
      acceptCommand_state]
  | read _ _ hs' _ | wait _ hs' _ | reset _ hs' _ | draw _ _ hs' _ _ =>
    rw [hs] at hs'; cases hs'

/-- Settles O15, from what the step does at each event. -/
theorem runStateChangesOnlyAsTheTableSays : Obligations.RunStateChangesOnlyAsTheTableSays := by
  intro s t h
  refine ⟨?_, fun _ _ _ hs => step_state_of_write h hs, ?_, ?_, ?_, ?_⟩
  · intro rest hs
    rw [step_of_reset hs] at h
    cases h; rfl
  · intro addr rest hs
    rw [step_of_cons hs] at h
    cases h; rfl
  · intro rest hs
    rw [step_of_wait hs] at h
    cases h; rfl
  · intro b rest hs
    rw [step_of_hostDraw hs (hostDraw_bound_ne_zero h hs)] at h
    cases h; rfl
  · intro hs
    obtain ⟨rest, hturn⟩ := step_of_turn hs
    rw [hturn] at h
    rcases engineTurn_cases h with ⟨hb, rfl⟩ | ⟨hb, hm⟩
    · exact .inr ⟨hb, rfl⟩
    · exact .inl ⟨hb, (microStep_frame hm).2.imp_left fun hgo => hgo.1.trans hb⟩

/-! ### HERR -/

/-- HERR becomes 1 only by a dropped write, and becomes 0 only by Reset (R29). -/
theorem step_herr (h : step s = .next t) :
    t.herr = s.herr ∨
    (∃ addr v rest, s.schedule = .write addr v :: rest ∧
      t = { s with schedule := rest, herr := true }) ∨
    ∃ rest, s.schedule = .reset :: rest ∧ t.herr = false := by
  cases step_case h with
  | dropped addr v rest hs _ ht => exact .inr (.inl ⟨addr, v, rest, hs, ht⟩)
  | reset rest hs ht => exact .inr (.inr ⟨rest, hs, by rw [ht, resetEngine_herr]⟩)
  | micro _ _ _ hm => exact .inl (microStep_frame hm).1.herr
  | started i _ _ _ _ ht => exact .inl (by rw [ht, acceptCommand_herr])
  | stillTurn _ _ _ ht | wroteOpa _ _ _ _ ht | wroteOpb _ _ _ _ ht | wroteOpn _ _ _ _ ht
  | illegal _ _ _ _ _ ht | modZero _ _ _ _ _ _ ht | read _ _ _ ht | wait _ _ ht
  | draw _ _ _ _ ht => exact .inl (by rw [ht])

/-- Settles O16, from what a dropped write does, from who writes HERR, and from the runs that HERR does
not steer. -/
theorem herrIsStickyAndDoesNotDisturbACommand :
    Obligations.HerrIsStickyAndDoesNotDisturbACommand := by
  refine ⟨fun s addr v rest hs hd => ⟨_, step_of_dropped hs hd, rfl⟩, ?_, ?_,
    fun n s t h => engineRun_dropWrite n h⟩
  · intro s t h h0 h1
    rcases step_herr h with heq | hdrop | ⟨-, -, hzero⟩
    · simp [heq, h0] at h1
    · exact hdrop
    · simp [hzero] at h1
  · intro s t h h1 h0
    rcases step_herr h with heq | ⟨_, _, _, -, ht⟩ | ⟨rest, hs, -⟩
    · simp [heq, h1] at h0
    · simp [ht] at h0
    · exact ⟨rest, hs⟩

/-! ### NOINV -/

/-- A command word processed in IDLE or DONE zeroes RES and NOINV, whatever it goes on to do (R85). -/
theorem step_of_processedWord {w : Nat} {rest : List Event} (h : step s = .next t)
    (hs : s.schedule = .write 0#3 w :: rest) (ha : accepting s = true) :
    t.res = 0 ∧ t.noinv = false := by
  cases step_case h with
  | stillTurn rest' hturn _ _ | micro rest' hturn _ _ =>
    exact absurd hs (schedule_ne_of_turn hturn (by simp))
  | dropped addr v rest' hs' hd _ =>
    rw [hs] at hs'; cases hs'
    simp [ha] at hd
  | illegal _ _ _ _ _ ht | modZero _ _ _ _ _ _ ht => exact ⟨by rw [ht], by rw [ht]⟩
  | started i _ _ _ _ ht =>
    exact ⟨by rw [ht, acceptCommand_res], by rw [ht, acceptCommand_noinv]⟩
  | wroteOpa _ _ hs' _ _ | wroteOpb _ _ hs' _ _ | wroteOpn _ _ hs' _ _ | read _ _ hs' _ | wait _ hs' _
  | reset _ hs' _ | draw _ _ hs' _ _ => rw [hs] at hs'; cases hs'

/-- Who writes NOINV: the micro-step at I_FIN on r > 1, a processed command word, and Reset (R28). -/
theorem step_noinv (h : step s = .next t) :
    t.noinv = s.noinv ∨
    (s.state = .busy ∧ s.phase = .iFin ∧ 1 < s.work.r ∧ t.res = 0 ∧ t.noinv = true ∧
      t.state = .done) ∨
    t.noinv = false ∧ ((∃ rest, s.schedule = .reset :: rest) ∨
      ∃ w rest, s.schedule = .write 0#3 w :: rest ∧ (s.state = .idle ∨ s.state = .done)) := by
  cases step_case h with
  | micro rest _ hb hm =>
    rcases (microStep_case hm).noinv with ⟨hp, hr, ht⟩ | ⟨-, heq⟩
    · exact .inr (.inl ⟨hb, hp, hr, by rw [ht]; simp⟩)
    · exact .inl heq
  | reset rest hs ht => exact .inr (.inr ⟨by rw [ht, resetEngine_noinv], .inl ⟨rest, hs⟩⟩)
  | illegal w rest hs ha _ ht =>
    exact .inr (.inr ⟨by rw [ht], .inr ⟨w, rest, hs, accepting_iff.1 ha⟩⟩)
  | modZero i rest hs ha _ _ ht =>
    exact .inr (.inr ⟨by rw [ht], .inr ⟨_, rest, hs, accepting_iff.1 ha⟩⟩)
  | started i rest hs ha _ ht =>
    exact .inr (.inr ⟨by rw [ht, acceptCommand_noinv], .inr ⟨_, rest, hs, accepting_iff.1 ha⟩⟩)
  | stillTurn _ _ _ ht | dropped _ _ _ _ _ ht | wroteOpa _ _ _ _ ht | wroteOpb _ _ _ _ ht
  | wroteOpn _ _ _ _ ht | read _ _ _ ht | wait _ _ ht | draw _ _ _ _ ht => exact .inl (by rw [ht])

/-- Settles O17, from who writes NOINV and from what a processed word and Reset do. -/
theorem noinvIsSetOnlyByModinvAndClearedByIssueOrReset :
    Obligations.NoinvIsSetOnlyByModinvAndClearedByIssueOrReset := by
  intro s t h
  refine ⟨fun h0 h1 => ?_, fun hb hp hr hs => ?_, fun h1 h0 => ?_, fun rest hs => ?_,
    fun w rest hs ha => (step_of_processedWord h hs (accepting_iff.2 ha)).2⟩
  · rcases step_noinv h with heq | ⟨hb, hp, hr, hres, -, hd⟩ | ⟨hzero, -⟩
    · simp [heq, h0] at h1
    · exact ⟨hb, hp, hr, hres, hd⟩
    · simp [hzero] at h1
  · obtain ⟨rest, hturn⟩ := step_of_turn hs
    rw [hturn, engineTurn_busy (s := { s with schedule := rest }) hb] at h
    rcases (microStep_case h).noinv with ⟨-, -, ht⟩ | ⟨hno, -⟩
    · simp [ht]
    · exact absurd ⟨hp, hr⟩ hno
  · rcases step_noinv h with heq | ⟨-, -, -, -, hone, -⟩ | ⟨-, hwho⟩
    · simp [heq, h1] at h0
    · simp [hone] at h0
    · exact hwho
  · rw [step_of_reset hs] at h
    cases h; rfl

/-! ### The operand registers, RES and LASTOP -/

/-- Settles O18, by the cases of the step: only an accepted operand write changes an operand. -/
theorem operandsChangeOnlyByAcceptedWritesAndReset :
    Obligations.OperandsChangeOnlyByAcceptedWritesAndReset := by
  intro s t h hnoreset
  cases step_case h with
  | wroteOpa v rest hs ha ht =>
    subst t
    exact ⟨fun _ => ⟨v, rest, hs, accepting_iff.1 ha, rfl⟩, absurd rfl, absurd rfl⟩
  | wroteOpb v rest hs ha ht =>
    subst t
    exact ⟨absurd rfl, fun _ => ⟨v, rest, hs, accepting_iff.1 ha, rfl⟩, absurd rfl⟩
  | wroteOpn v rest hs ha ht =>
    subst t
    exact ⟨absurd rfl, absurd rfl, fun _ => ⟨v, rest, hs, accepting_iff.1 ha, rfl⟩⟩
  | micro rest _ _ hm =>
    obtain ⟨hsame, -⟩ := microStep_frame hm
    exact ⟨absurd hsame.opa, absurd hsame.opb, absurd hsame.opn⟩
  | reset rest hs _ => exact absurd hs (hnoreset rest)
  | started i _ _ _ _ ht =>
    subst t
    exact ⟨absurd (acceptCommand_opa i _), absurd (acceptCommand_opb i _),
      absurd (acceptCommand_opn i _)⟩
  | stillTurn _ _ _ ht | dropped _ _ _ _ _ ht | illegal _ _ _ _ _ ht | modZero _ _ _ _ _ _ ht
  | read _ _ _ ht | wait _ _ ht | draw _ _ _ _ ht =>
    subst t
    exact ⟨absurd rfl, absurd rfl, absurd rfl⟩

/-- Settles O19, by the cases of the step: a processed word and Reset zero RES, and of the micro-steps
only one that completes writes it. -/
theorem resultIsWrittenOnlyByIssueCompleteAndReset :
    Obligations.ResultIsWrittenOnlyByIssueCompleteAndReset := by
  intro s t h hne
  have word : ∀ {w rest}, s.schedule = .write 0#3 w :: rest → accepting s = true →
      t.res = 0 ∧ ∃ w rest, s.schedule = .write 0#3 w :: rest ∧ (s.state = .idle ∨ s.state = .done) :=
    fun hs ha => ⟨(step_of_processedWord h hs ha).1, _, _, hs, accepting_iff.1 ha⟩
  cases step_case h with
  | reset rest hs ht => exact .inl ⟨by rw [ht, resetEngine_res], rest, hs⟩
  | illegal _ _ hs ha _ _ | modZero _ _ hs ha _ _ _ | started _ _ hs ha _ _ =>
    exact .inr (.inl (word hs ha))
  | micro rest _ hb hm =>
    rcases (microStep_frame hm).2 with ⟨-, hres, -⟩ | hdone
    · exact absurd hres hne
    · exact .inr (.inr ⟨hb, hdone⟩)
  | stillTurn _ _ _ ht | dropped _ _ _ _ _ ht | wroteOpa _ _ _ _ ht | wroteOpb _ _ _ _ ht
  | wroteOpn _ _ _ _ ht | read _ _ _ ht | wait _ _ ht | draw _ _ _ _ ht =>
    exact absurd (by rw [ht]) hne

/-- Settles O20, by the cases of the step: only a start enters BUSY, and only it and Reset write LASTOP. -/
theorem lastopIsTheMostRecentlyStartedCommand :
    Obligations.LastopIsTheMostRecentlyStartedCommand := by
  intro s t h
  cases step_case h with
  | started i rest hs ha _ ht =>
    have hlast : t.lastop = opcode i := by rw [ht, acceptCommand_lastop]
    have hbusy : t.state = .busy := by rw [ht, acceptCommand_state]
    exact ⟨fun _ => .inr ⟨i, rest, hs, accepting_iff.1 ha, hbusy, hlast⟩,
      fun _ _ => ⟨i, rest, hs, accepting_iff.1 ha, hlast⟩⟩
  | reset rest hs ht =>
    subst t
    exact ⟨fun _ => .inl ⟨rfl, rest, hs⟩, fun _ hb => nomatch hb⟩
  | micro _ _ hb hm => exact ⟨absurd (microStep_frame hm).1.lastop, fun hnb => absurd hb hnb⟩
  | illegal _ _ _ _ _ ht | modZero _ _ _ _ _ _ ht =>
    subst t
    exact ⟨absurd rfl, fun _ hb => nomatch hb⟩
  | stillTurn _ _ _ ht | dropped _ _ _ _ _ ht | wroteOpa _ _ _ _ ht | wroteOpb _ _ _ _ ht
  | wroteOpn _ _ _ _ ht | read _ _ _ ht | wait _ _ ht | draw _ _ _ _ ht =>
    subst t
    exact ⟨absurd rfl, fun hnb hb => absurd hb hnb⟩

end Sys2Proof.Machine
end

section
/-! The decoder's answers for every word, and what the step does on a read, an operand write and a command
word (R81, R83 to R88). -/

namespace Sys2Proof.Machine

variable {s : State}

/-! ### Decoding -/

/-- A command's word decodes to it (R86, R87). -/
theorem decodeWord_encodeWord (i : Instr) : decodeWord (encodeWord i) = .ok i := by
  cases i
  case gcd => exact decodeWord_one
  case modinv => exact decodeWord_two
  case powmod => exact decodeWord_three
  case isprime => exact decodeWord_four

theorem decodeWord_eq_ok_iff {w : Nat} {i : Instr} : decodeWord w = .ok i ↔ w = encodeWord i := by
  refine ⟨fun h => ?_, fun h => h ▸ decodeWord_encodeWord i⟩
  rcases decodeWord_cases h with ⟨rfl, rfl⟩ | ⟨rfl, rfl⟩ | ⟨rfl, rfl⟩ | ⟨rfl, rfl⟩ <;> rfl

/-- The words of the four commands are 1 to 4 (R87). -/
theorem exists_encodeWord_of_mem {w : Nat} (h : w ∈ [1, 2, 3, 4]) : ∃ i, w = encodeWord i := by
  simp only [List.mem_cons, List.not_mem_nil, or_false] at h
  rcases h with rfl | rfl | rfl | rfl
  · exact ⟨.gcd, rfl⟩
  · exact ⟨.modinv, rfl⟩
  · exact ⟨.powmod, rfl⟩
  · exact ⟨.isprime, rfl⟩

/-- Every word is a command's, is another byte, or has a high bit (R86, R88). -/
theorem decodeWord_trichotomy (w : Nat) :
    (∃ i, w = encodeWord i ∧ decodeWord w = .ok i) ∨
    (w = 0 ∨ 5 ≤ w ∧ w < 256) ∧ decodeWord w = .error .unknownOpcode ∨
    256 ≤ w ∧ decodeWord w = .error .highBitsSet := by
  by_cases hw : w ∈ [1, 2, 3, 4]
  · obtain ⟨i, rfl⟩ := exists_encodeWord_of_mem hw
    exact .inl ⟨i, rfl, decodeWord_encodeWord i⟩
  · rcases Nat.lt_or_ge w 256 with hlt | hge
    · refine .inr (.inl ⟨?_, decodeWord_unknown w hlt hw⟩)
      simp only [List.mem_cons, List.not_mem_nil, or_false] at hw
      omega
    · exact .inr (.inr ⟨hge, decodeWord_high hge⟩)

theorem encodeWord_bounds (i : Instr) : 1 ≤ encodeWord i ∧ encodeWord i ≤ 4 := by
  cases i <;> decide

/-- Settles O1, from the three kinds of word, which exclude each other. -/
theorem decodeAcceptsExactlyTheFourCommandWords :
    Obligations.DecodeAcceptsExactlyTheFourCommandWords := by
  refine ⟨fun w i => decodeWord_eq_ok_iff, rfl, rfl, rfl, rfl, fun w => ?_, fun w => ?_⟩
  all_goals
    rcases decodeWord_trichotomy w with ⟨i, rfl, hd⟩ | ⟨hw, hd⟩ | ⟨hw, hd⟩
    · have := encodeWord_bounds i
      simp only [hd, reduceCtorEq, false_iff]
      omega
    · simp only [hd, Except.error.injEq, reduceCtorEq, true_iff, false_iff]
      omega
    · simp only [hd, Except.error.injEq, reduceCtorEq, true_iff, false_iff]
      omega

/-- Settles O2, from the rows of the opcode map and the two rejects. -/
theorem sampleWordsDecodeAsTheSpecSays : Obligations.SampleWordsDecodeAsTheSpecSays :=
  ⟨decodeWord_one, decodeWord_two, decodeWord_three, decodeWord_four,
    decodeWord_unknown 0 (by decide) (by decide), decodeWord_unknown 5 (by decide) (by decide),
    decodeWord_unknown 255 (by decide) (by decide), decodeWord_high (by decide),
    decodeWord_high (by decide), decodeWord_high (by decide)⟩

/-! ### Reads and operand writes -/

/-- Settles O8, from the register that each address names. -/
theorem readReturnsTheMappedRegister : Obligations.ReadReturnsTheMappedRegister := by
  intro s addr rest hs
  refine ⟨portValue addr s, step_of_cons hs, ?_, ?_, ?_, ?_, ?_, ?_, ?_⟩
  · rintro rfl; rfl
  · rintro rfl; exact statusByte_toNat s
  · rintro rfl; rfl
  · rintro rfl; rfl
  · rintro rfl; rfl
  · rintro rfl; rfl
  · rintro (rfl | rfl) <;> rfl

/-- An operand write in IDLE or DONE stores what it is to store (R83). -/
theorem operandWrite_accepted (ha : accepting s = true) (written : State) :
    operandWrite s written = .next written := by simp [operandWrite, ha]

/-- Settles O9, from the step on a write and the accepted operand write. -/
theorem acceptedOperandWriteSetsOnlyItsRegister :
    Obligations.AcceptedOperandWriteSetsOnlyItsRegister := by
  intro s addr v rest hs hstate
  have ha : accepting { s with schedule := rest } = true := accepting_iff.2 hstate
  rw [step_of_write hs]
  refine ⟨?_, ?_, ?_⟩ <;> rintro rfl <;> exact operandWrite_accepted ha _

/-- Settles O10: the dropped writes set HERR, and of the others, none of which is a Reset, only those could
change it. -/
theorem droppedWriteSetsOnlyHerr : Obligations.DroppedWriteSetsOnlyHerr := by
  intro s addr v rest hs
  refine ⟨step_of_dropped hs, fun hkept => ?_⟩
  obtain ⟨t, ht⟩ := registerWrite_next (portRegister addr) v { s with schedule := rest }
  rw [← step_of_write hs] at ht
  refine ⟨t, ht, ?_⟩
  cases step_case ht with
  | dropped addr' v' rest' hs' hd _ =>
    rw [hs] at hs'; cases hs'
    rw [not_accepting_iff, or_assoc] at hd
    exact absurd hd hkept
  | started i _ _ _ _ hst => rw [hst, acceptCommand_herr]
  | micro _ _ _ hm => exact (microStep_frame hm).1.herr
  | reset rest' hs' _ => rw [hs] at hs'; cases hs'
  | stillTurn _ _ _ hst | wroteOpa _ _ _ _ hst | wroteOpb _ _ _ _ hst | wroteOpn _ _ _ _ hst
  | illegal _ _ _ _ _ hst | modZero _ _ _ _ _ _ hst | read _ _ _ hst | wait _ _ hst
  | draw _ _ _ _ hst => rw [hst]

/-! ### Command words -/

/-- A write to address 0 is a command word (R61, R85). -/
theorem step_of_commandWrite {w : Nat} {rest : List Event} (hs : s.schedule = .write 0#3 w :: rest) :
    step s = commandWrite w { s with schedule := rest } :=
  step_of_write hs

/-- A word that decodes is executed (R85). -/
theorem step_of_decodedWord {w : Nat} {rest : List Event} {i : Instr}
    (hs : s.schedule = .write 0#3 w :: rest) (hd : decodeWord w = .ok i) :
    step s = exec i { s with schedule := rest } := by
  simp only [step_of_commandWrite hs, commandWrite, hd]

/-- Settles O3, from the step on a write and the decoder's answer. -/
theorem stepExecutesTheDecodedCommand : Obligations.StepExecutesTheDecodedCommand :=
  fun _ _ _ _ hs hd => step_of_decodedWord hs hd

/-- A command whose operand check passes starts (R85, R101, R113, R132, R152). -/
theorem exec_started (ha : accepting s = true) {i : Instr}
    (hn : i = .modinv ∨ i = .powmod → s.opn ≠ 0) :
    exec i s = .next (acceptCommand i (startCommand i (clearOutcome s))) := by
  cases i
  case gcd => simp [exec, execGcd, ha, acceptCommand]
  case modinv => simp [exec, execModinv, ha, requireModulus, hn, acceptCommand]
  case powmod => simp [exec, execPowmod, ha, requireModulus, hn, acceptCommand]
  case isprime => simp [exec, execIsprime, ha, acceptCommand]

/-- MODINV and POWMOD with OPN = 0 fault with MOD_ZERO (R85, R302). -/
theorem exec_zeroModulus (ha : accepting s = true) {i : Instr} (hi : i = .modinv ∨ i = .powmod)
    (hn : s.opn = 0) : exec i s = .next (raiseFault .modZero (clearOutcome s)) := by
  rcases hi with rfl | rfl
  · simp [exec, execModinv, ha, requireModulus, hn]
  · simp [exec, execPowmod, ha, requireModulus, hn]

/-- A command's word in IDLE or DONE starts it when its operand check passes (R85). -/
theorem step_of_command {i : Instr} {rest : List Event}
    (hs : s.schedule = .write 0#3 (encodeWord i) :: rest) (ha : accepting s = true)
    (hn : i = .modinv ∨ i = .powmod → s.opn ≠ 0) :
    step s = .next (acceptCommand i (startCommand i (clearOutcome { s with schedule := rest }))) :=
  (step_of_decodedWord hs (decodeWord_encodeWord i)).trans
    (exec_started (s := { s with schedule := rest }) ha hn)

/-- A word of no command in IDLE or DONE faults with ILLEGAL_CMD (R85, R88, R301). -/
theorem step_of_illegalWord {w : Nat} {rest : List Event} (hs : s.schedule = .write 0#3 w :: rest)
    (ha : accepting s = true) (hw : w ∉ [1, 2, 3, 4]) :
    step s = .next (raiseFault .illegalCmd (clearOutcome { s with schedule := rest })) := by
  obtain ⟨e, he⟩ := decodeWord_illegal hw
  simp only [step_of_commandWrite hs, commandWrite, he]
  exact issue_accepting (s := { s with schedule := rest }) ha _

/-- Settles O11, from what a dropped, an illegal, a faulting and a starting command word do. -/
theorem commandIssueFollowsTheOrderOfChecks : Obligations.CommandIssueFollowsTheOrderOfChecks := by
  intro s w rest hs
  refine ⟨fun hstate => step_of_dropped hs (hstate.imp_right .inl), fun hstate => ?_⟩
  have ha : accepting s = true := accepting_iff.2 hstate
  refine ⟨step_of_illegalWord hs ha, fun hw hn => ?_, ?_, ?_, ?_, ?_⟩
  · have hsub : [2, 3] ⊆ [1, 2, 3, 4] := by decide
    obtain ⟨i, rfl⟩ := exists_encodeWord_of_mem (hsub hw)
    rw [step_of_decodedWord hs (decodeWord_encodeWord i)]
    exact exec_zeroModulus (s := { s with schedule := rest }) ha
      ((encodeWord_mem_modulus_iff i).1 hw) hn
  · rintro rfl
    exact step_of_command (i := .gcd) hs ha (by simp)
  · rintro rfl hn
    exact step_of_command (i := .modinv) hs ha fun _ => hn
  · rintro rfl hn
    exact step_of_command (i := .powmod) hs ha fun _ => hn
  · rintro rfl
    exact step_of_command (i := .isprime) hs ha (by simp)

end Sys2Proof.Machine
end

section
/-! A running command's micro-steps never stop under the invariant of its phase, and they come to an end
(R182, R356). -/

namespace Sys2Proof.Machine

variable {s t : State}

/-- With a split of OPN − 1 there is a modulus, and a witness to draw (R155). -/
theorem SplitInv.opn_ne_zero (h : SplitInv s) : s.opn ≠ 0 := by
  have := h.1
  omega

theorem SplitInv.m_ne_zero (h : SplitInv s) : s.work.m ≠ 0 := by
  obtain ⟨hn, hsplit⟩ := h
  intro h0
  rw [h0, mul_zero] at hsplit
  omega

/-- Under the invariant of its phase every micro-step has a next state (R182). -/
theorem PhaseInv.exists_microCase (h : PhaseInv s) : ∃ t, MicroCase s t := by
  unfold PhaseInv at h
  cases hp : s.phase <;> rw [hp] at h
  case gLoop =>
    by_cases hgb : s.work.gb = 0
    · exact ⟨_, .gcdEnds hp hgb rfl⟩
    · exact ⟨_, .gcdReduces hp hgb rfl⟩
  case iLoop =>
    by_cases hr : s.work.r' = 0
    · exact ⟨_, .euclidEnds hp hr rfl⟩
    · exact ⟨_, .euclidReduces hp hr rfl⟩
  case iFin =>
    by_cases hr : 1 < s.work.r
    · exact ⟨_, .noInverse hp hr rfl⟩
    · exact ⟨_, .inverse hp hr (Nat.one_le_iff_ne_zero.1 h.1.1) rfl⟩
  case pLoop =>
    by_cases hi : s.work.i = 0
    · exact ⟨_, .powmodEnds hp hi rfl⟩
    · exact ⟨_, .powmodIterates hp hi (Nat.one_le_iff_ne_zero.1 h.1) rfl⟩
  case sPre =>
    obtain hn | hn | hn : (s.opn = 0 ∨ s.opn = 1) ∨ (s.opn = 2 ∨ s.opn = 3) ∨ 4 ≤ s.opn := by omega
    · exact ⟨_, .belowTwo hp hn rfl⟩
    · exact ⟨_, .twoOrThree hp hn rfl⟩
    · exact ⟨_, .splitBegins hp hn rfl⟩
  case sSplit =>
    rcases Nat.mod_two_eq_zero_or_one s.work.m with hm | hm
    · exact ⟨_, .splitHalves hp hm rfl⟩
    · exact ⟨_, .splitEnds hp hm rfl⟩
  case sRound =>
    have hbound : s.opn - 3 ≠ 0 := by have := h.1.1; omega
    by_cases hc : s.work.c = s.opb
    · exact ⟨_, .roundsEnd hp hc rfl⟩
    · exact ⟨_, .roundBegins hp hc hbound rfl⟩
  case sPow =>
    by_cases hi : s.work.i = 0
    · exact ⟨_, .witnessPowerEnds hp hi rfl⟩
    · exact ⟨_, .witnessPowerIterates hp hi h.1.1.opn_ne_zero rfl⟩
  case sCheck =>
    by_cases hy : s.work.y = 1 ∨ s.work.y + 1 = s.opn
    · exact ⟨_, .checkPasses hp hy rfl⟩
    · exact ⟨_, .squaringBegins hp hy rfl⟩
  case sSq =>
    by_cases hj : s.work.j < s.work.k ∧ s.work.y + 1 ≠ s.opn
    · by_cases h1 : s.work.y * s.work.y % s.opn = 1
      · exact ⟨_, .squareIsOne hp hj.1 hj.2 h.1.1.opn_ne_zero h1 rfl⟩
      · exact ⟨_, .squares hp hj.1 hj.2 h.1.1.opn_ne_zero h1 rfl⟩
    · exact ⟨_, .squaringEnds hp hj rfl⟩
  case sEnd =>
    by_cases hy : s.work.y + 1 = s.opn
    · exact ⟨_, .roundPasses hp hy rfl⟩
    · exact ⟨_, .roundFails hp hy rfl⟩

/-! ### The variant -/

/-- The rounds of ISPRIME still to begin or to finish; before the first, one more for each phase. -/
def roundsLeft (s : State) : Nat :=
  match s.phase with
  | .sPre => s.opb + 2
  | .sSplit => s.opb + 1
  | _ => s.opb - s.work.c

/-- The phases still to come in a round of ISPRIME, and in MODINV. -/
def Phase.left : Phase → Nat
  | .iLoop => 1
  | .sRound => 4
  | .sPow => 3
  | .sCheck => 2
  | .sSq => 1
  | _ => 0

/-- What bounds the iterations still to come of a phase's own loop. -/
def iterationsLeft (s : State) : Nat :=
  match s.phase with
  | .gLoop => s.work.gb
  | .iLoop => s.work.r'
  | .pLoop => s.work.i
  | .sSplit => s.work.m
  | .sPow => s.work.i
  | .sSq => s.work.k - s.work.j
  | _ => 0

/-- The variant of a running command, by rounds, then phases, then iterations; GCD, MODINV and POWMOD use
neither OPB nor c for it, and neither changes while they run (R103, R115, R134, R356). -/
def variant (s : State) : Nat ×ₗ Nat ×ₗ Nat :=
  toLex (roundsLeft s, toLex (s.phase.left, iterationsLeft s))

theorem variant_lt_of_rounds (h : roundsLeft t < roundsLeft s) : variant t < variant s :=
  Prod.Lex.toLex_lt_toLex.2 (.inl h)

theorem variant_lt_of_phase (hr : roundsLeft t = roundsLeft s) (h : t.phase.left < s.phase.left) :
    variant t < variant s :=
  Prod.Lex.toLex_lt_toLex.2 (.inr ⟨hr, Prod.Lex.toLex_lt_toLex.2 (.inl h)⟩)

theorem variant_lt_of_iterations (hr : roundsLeft t = roundsLeft s) (hp : t.phase.left = s.phase.left)
    (h : iterationsLeft t < iterationsLeft s) : variant t < variant s :=
  Prod.Lex.toLex_lt_toLex.2 (.inr ⟨hr, Prod.Lex.toLex_lt_toLex.2 (.inr ⟨hp, h⟩)⟩)

/-- A micro-step that goes on makes the variant smaller. -/
theorem MicroCase.variant_lt (h : MicroCase s t) (hi : PhaseInv s) (hrun : t.state ≠ .done) :
    variant t < variant s := by
  unfold PhaseInv at hi
  cases h <;> subst t
  case gcdEnds | noInverse | inverse | powmodEnds | belowTwo | twoOrThree | roundsEnd | squareIsOne
      | roundFails => simp at hrun
  case euclidEnds hp _ | roundBegins hp _ _ | witnessPowerEnds hp _ | squaringBegins hp _
      | squaringEnds hp _ =>
    exact variant_lt_of_phase (by simp [roundsLeft, hp]) (by simp [Phase.left, hp])
  case splitBegins hp _ | splitEnds hp _ => exact variant_lt_of_rounds (by simp [roundsLeft, hp])
  case checkPasses hp _ | roundPasses hp _ =>
    rw [hp] at hi
    obtain ⟨⟨-, -, hc, -⟩, -⟩ := hi
    refine variant_lt_of_rounds ?_
    simp only [roundsLeft, hp]
    omega
  case gcdReduces hp hgb =>
    refine variant_lt_of_iterations ?_ ?_ ?_ <;> simp only [roundsLeft, iterationsLeft, hp]
    exact Nat.mod_lt _ (Nat.pos_of_ne_zero hgb)
  case euclidReduces hp hr =>
    refine variant_lt_of_iterations ?_ ?_ ?_ <;>
      simp only [roundsLeft, iterationsLeft, hp, reduceModinv_c]
    rw [reduceModinv_r_prime_eq_mod]
    exact Nat.mod_lt _ (Nat.pos_of_ne_zero hr)
  case powmodIterates hp hne _ | witnessPowerIterates hp hne _ =>
    refine variant_lt_of_iterations ?_ ?_ ?_ <;>
      simp only [roundsLeft, iterationsLeft, hp, squareMultiply_c, squareMultiply_i]
    omega
  case splitHalves hp _ =>
    rw [hp] at hi
    have hm : s.work.m ≠ 0 := hi.m_ne_zero
    refine variant_lt_of_iterations ?_ ?_ ?_ <;> simp only [roundsLeft, iterationsLeft, hp]
    omega
  case squares hp hj _ _ _ =>
    refine variant_lt_of_iterations ?_ ?_ ?_ <;> simp only [roundsLeft, iterationsLeft, hp]
    omega

end Sys2Proof.Machine
end

section
/-! What a command leaves when it completes, from the invariant of its last phase (R100, R110, R130, R150),
and the draws of ISPRIME from its issue on (R155, R163). -/

namespace Sys2Proof.Machine

variable {s₀ s t : State}

/-! ### GCD, MODINV and POWMOD -/

/-- At the end of Euclid's algorithm ga is the greatest common divisor (R103). -/
theorem GcdInv.result (h : GcdInv s) (hgb : s.work.gb = 0) : s.work.ga = Nat.gcd s.opa s.opb := by
  rw [← h, hgb, Nat.gcd_zero_right]

/-- At I_FIN r is the greatest common divisor of OPA and OPN (R112). -/
theorem ModinvInv.r_eq_gcd (h : ModinvInv s) (hr : s.work.r' = 0) :
    s.work.r = Nat.gcd s.opa s.opn := by
  obtain ⟨-, -, -, hg⟩ := h
  rw [Nat.gcd_comm, ← hg, hr, Nat.gcd_zero_right]

/-- With r = 1 Bézout's equation makes t an inverse of OPA, and bringing it into [0, OPN) keeps it one
(R116). -/
theorem ModinvInv.inverse (h : ModinvInv s) (hr : s.work.r = 1) :
    emod s.work.t s.opn < s.opn ∧
      (s.opn : Int) ∣ (s.opa : Int) * (emod s.work.t s.opn : Nat) - 1 := by
  obtain ⟨hn, hbez, -, -⟩ := h
  obtain ⟨hlt, hdvd⟩ := emod_spec s.work.t (Nat.one_le_iff_ne_zero.1 hn)
  refine ⟨hlt, ?_⟩
  have hone : (s.opa : Int) * s.work.t - 1 = s.opn * -s.work.s := by
    rw [hr, Nat.cast_one] at hbez
    linear_combination -hbez
  have hsum : (s.opa : Int) * (emod s.work.t s.opn : Nat) - 1 =
      ((s.opa : Int) * s.work.t - 1) - s.opa * (s.work.t - (emod s.work.t s.opn : Nat)) := by ring
  rw [hsum, hone]
  exact dvd_sub (dvd_mul_right _ _) (hdvd.mul_left _)

/-- With the exponent used up, v is the power (R134, R135). -/
theorem PowmodInv.result (h : PowmodInv s) (hi : s.work.i = 0) :
    s.work.v = powmodResult s.opa s.opb s.opn := by
  obtain ⟨-, hpow, hv, hzero⟩ := h
  rw [powmodResult]
  split
  next hb => exact (hzero hb).1
  next hb =>
    have hlt : s.work.v < s.opn := hv.resolve_right fun hone => hb (hone.2 hi)
    rwa [hi, pow_zero, mul_one, Nat.mod_eq_of_lt hlt] at hpow

/-! ### ISPRIME -/

/-- A round that its first power passes (R158, R161). -/
theorem MRRound_passes {n k m a y : Nat} (hy : y = a ^ m % n) (h : y = 1 ∨ y + 1 = n) :
    MRRound n k m a = .pass := by
  subst hy
  rw [MRRound, if_pos h]

/-- A squaring that gives 1 ends the loop with COMPOSITE (R159, R161). -/
theorem squaringVerdict_one {n k j y : Nat} (hj : j < k) (hy : y + 1 ≠ n) (h1 : y * y % n = 1) :
    squaringVerdict n (k - j) y = .composite := by
  rw [show k - j = k - (j + 1) + 1 by omega, squaringVerdict, if_neg hy, if_pos h1]

/-- The witness of round `x` for a command issued in `s₀`, counting from 0 (R156). -/
def witness (s₀ : State) (n x : Nat) : Nat := s₀.answerAt (n - 3) x + 2

/-- Since `s₀` the generator has answered `e` requests. -/
def Drawn (s₀ s : State) (e : Nat) : Prop :=
  s.answers = s₀.answers.drop e ∧ s.requests.length = s₀.requests.length + e

/-- The completed rounds have passed. -/
def RoundsPassed (s₀ s : State) : Prop :=
  ∀ x, x < s.work.c → MRRound s.opn s.work.k s.work.m (witness s₀ s.opn x) = .pass

/-- The draws of an ISPRIME issued in `s₀`: one for each completed round, all of which have passed, and one
for the round that is running (R155, R163). -/
def DrawInv (s₀ s : State) : Prop :=
  match s.phase with
  | .sPre | .sSplit => Drawn s₀ s 0
  | .sRound => Drawn s₀ s s.work.c ∧ RoundsPassed s₀ s
  | .sPow | .sCheck | .sSq | .sEnd =>
    Drawn s₀ s (s.work.c + 1) ∧ RoundsPassed s₀ s ∧ s.work.a = witness s₀ s.opn s.work.c
  | .gLoop | .iLoop | .iFin | .pLoop => True

/-- The next answer is the one `answerAt` numbers. -/
theorem Drawn.nextAnswer {e : Nat} (h : Drawn s₀ s e) (b : Nat) :
    nextAnswer b s = s₀.answerAt b e := by
  obtain ⟨hans, hreq⟩ := h
  rw [Machine.nextAnswer, State.answerAt, hans, hreq]
  by_cases he : e < s₀.answers.length
  · rw [dif_pos he, List.drop_eq_getElem_cons he]
  · rw [dif_neg he, List.drop_eq_nil_of_le (Nat.le_of_not_lt he)]

theorem Drawn.afterDraw {e : Nat} (h : Drawn s₀ s e) (b : Nat) :
    Drawn s₀ (afterDraw b s) (e + 1) := by
  obtain ⟨hans, hreq⟩ := h
  exact ⟨by simp [hans], by simp [hreq]; omega⟩

/-- The running round passes too: it is one more completed round. -/
theorem RoundsPassed.succ (h : RoundsPassed s₀ s) (ha : s.work.a = witness s₀ s.opn s.work.c)
    (hpass : MRRound s.opn s.work.k s.work.m s.work.a = .pass) (ph : Phase) :
    RoundsPassed s₀ { s with work := { s.work with c := s.work.c + 1 }, phase := ph } := by
  intro x hx
  rcases Nat.lt_succ_iff_lt_or_eq.1 hx with hlt | rfl
  · exact h x hlt
  · exact ha ▸ hpass

/-- A micro-step that goes on keeps the account of the draws. -/
theorem MicroCase.drawInv (h : MicroCase s t) (hi : PhaseInv s) (hd : DrawInv s₀ s)
    (hrun : t.state ≠ .done) : DrawInv s₀ t := by
  unfold PhaseInv at hi
  unfold DrawInv at hd
  cases h <;> subst t
  case gcdEnds | noInverse | inverse | powmodEnds | belowTwo | twoOrThree | roundsEnd | squareIsOne
      | roundFails => simp at hrun
  case gcdReduces | euclidEnds | euclidReduces | powmodIterates => trivial
  case splitBegins hp _ | splitHalves hp _ => rw [hp] at hd; exact hd
  case splitEnds hp _ =>
    rw [hp] at hd
    exact ⟨hd, fun x hx => absurd hx (Nat.not_lt_zero x)⟩
  case roundBegins hp _ _ =>
    rw [hp] at hd
    obtain ⟨hdrawn, hpassed⟩ := hd
    exact ⟨hdrawn.afterDraw _, hpassed, congrArg (· + 2) (hdrawn.nextAnswer _)⟩
  case witnessPowerEnds hp _ | witnessPowerIterates hp _ _ | squaringBegins hp _
      | squares hp _ _ _ _ | squaringEnds hp _ => rw [hp] at hd; exact hd
  case checkPasses hp hy =>
    rw [hp] at hi hd
    obtain ⟨hdrawn, hpassed, ha⟩ := hd
    exact ⟨hdrawn, hpassed.succ ha (MRRound_passes hi.2 hy) _⟩
  case roundPasses hp hy =>
    rw [hp] at hi hd
    obtain ⟨hdrawn, hpassed, ha⟩ := hd
    exact ⟨hdrawn, hpassed.succ ha (hi.2.trans (if_pos hy)) _⟩

/-- The verdict of `iters` rounds on n = 2^k·m + 1, with the witnesses drawn from `s₀` on: 1 when all pass,
and 0 with a first one that does not (R161, R163). -/
def RoundsVerdict (s₀ : State) (n iters k m res : Nat) : Prop :=
  (res = 1 ∧ ∀ x, x < iters → MRRound n k m (witness s₀ n x) = .pass) ∨
  (res = 0 ∧ ∃ e, e < iters ∧ (∀ x, x < e → MRRound n k m (witness s₀ n x) = .pass) ∧
    MRRound n k m (witness s₀ n e) = .composite)

/-- A round that fails is the first that does. -/
theorem WitnessInv.verdict_composite (h : WitnessInv s) (hpassed : RoundsPassed s₀ s)
    (ha : s.work.a = witness s₀ s.opn s.work.c)
    (hcomp : MRRound s.opn s.work.k s.work.m s.work.a = .composite) :
    4 ≤ s.opn ∧ ∃ k m, s.opn = 2 ^ k * m + 1 ∧ m % 2 = 1 ∧ RoundsVerdict s₀ s.opn s.opb k m 0 := by
  obtain ⟨⟨hn, hsplit⟩, hodd, hc, -⟩ := h
  exact ⟨hn, _, _, hsplit, hodd, .inr ⟨rfl, s.work.c, hc, hpassed, ha ▸ hcomp⟩⟩

/-! ### All four commands -/

/-- What command `i`, issued in `s₀`, leaves in NOINV and RES (R100, R110, R117, R130, R150). -/
def CommandResult (i : Instr) (s₀ : State) (noinv : Bool) (res : Nat) : Prop :=
  match i with
  | .gcd => noinv = false ∧ res = Nat.gcd s₀.opa s₀.opb
  | .modinv =>
    (Nat.gcd s₀.opa s₀.opn = 1 ∧ noinv = false ∧ res < s₀.opn ∧
      (s₀.opn : Int) ∣ (s₀.opa : Int) * res - 1) ∨
    (Nat.gcd s₀.opa s₀.opn ≠ 1 ∧ noinv = true ∧ res = 0)
  | .powmod => noinv = false ∧ res = powmodResult s₀.opa s₀.opb s₀.opn
  | .isprime => noinv = false ∧
    (s₀.opn < 2 ∧ res = 0 ∨ (s₀.opn = 2 ∨ s₀.opn = 3) ∧ res = 1 ∨
      4 ≤ s₀.opn ∧ ∃ k m, s₀.opn = 2 ^ k * m + 1 ∧ m % 2 = 1 ∧
        RoundsVerdict s₀ s₀.opn s₀.opb k m res)

/-- Command `i`, issued in `s₀`, is running. -/
structure Running (i : Instr) (s₀ s : State) : Prop where
  busy     : s.state = .busy
  command  : s.phase.command = i
  noinv    : s.noinv = false
  opa      : s.opa = s₀.opa
  opb      : s.opb = s₀.opb
  opn      : s.opn = s₀.opn
  phaseInv : PhaseInv s
  drawInv  : DrawInv s₀ s

/-- A command that starts is running (R85). -/
theorem Running.started (i : Instr) (s : State) (rest : List Event)
    (hn : i = .modinv ∨ i = .powmod → s.opn ≠ 0) :
    Running i s (acceptCommand i (startCommand i (clearOutcome { s with schedule := rest }))) where
  busy := by simp
  command := by simp
  noinv := by simp
  opa := by simp
  opb := by simp
  opn := by simp
  phaseInv := acceptCommand_phaseInv i _ hn
  drawInv := by cases i; exacts [trivial, trivial, trivial, ⟨rfl, rfl⟩]

/-- What is pending and what the host has seen are free while a command runs. -/
theorem Running.environment {i : Instr} (h : Running i s₀ s) (schedule : List Event)
    (seen : List Observation) : Running i s₀ { s with schedule := schedule, seen := seen } :=
  ⟨h.busy, h.command, h.noinv, h.opa, h.opb, h.opn, h.phaseInv, h.drawInv⟩

/-- A micro-step that does not complete the command leaves it running. -/
theorem Running.goesOn {i : Instr} (h : Running i s₀ s) (hm : MicroCase s t)
    (hrun : t.state ≠ .done) : Running i s₀ t := by
  obtain ⟨hsame, hout⟩ := microStep_frame hm.microStep_eq
  obtain ⟨hstate, -, hnoinv⟩ := hout.resolve_right hrun
  obtain ⟨hcmd, hphase⟩ := hm.phaseInv h.phaseInv hrun
  exact ⟨hstate.trans h.busy, hcmd.trans h.command, hnoinv.trans h.noinv, hsame.opa.trans h.opa,
    hsame.opb.trans h.opb, hsame.opn.trans h.opn, hphase, hm.drawInv h.phaseInv h.drawInv hrun⟩

/-- The micro-step that completes a command leaves the command's result. -/
theorem Running.result {i : Instr} (h : Running i s₀ s) (hm : MicroCase s t) (hd : t.state = .done) :
    CommandResult i s₀ t.noinv t.res := by
  obtain ⟨hb, hcmd, hnoinv, hopa, hopb, hopn, hi, hdraw⟩ := h
  unfold PhaseInv at hi
  unfold DrawInv at hdraw
  subst hcmd
  unfold CommandResult
  rw [← hopa, ← hopb, ← hopn]
  cases hm <;> subst t
  case gcdReduces | euclidEnds | euclidReduces | powmodIterates | splitBegins | splitHalves | splitEnds
      | roundBegins | witnessPowerEnds | witnessPowerIterates | checkPasses | squaringBegins | squares
      | squaringEnds | roundPasses => simp [hb] at hd
  case gcdEnds hp hgb =>
    rw [hp] at hi ⊢
    exact ⟨hnoinv, hi.result hgb⟩
  case noInverse hp hr =>
    rw [hp] at hi ⊢
    obtain ⟨hinv, hr0⟩ := hi
    refine .inr ⟨?_, rfl, rfl⟩
    rw [← hinv.r_eq_gcd hr0]
    omega
  case inverse hp hr hn =>
    rw [hp] at hi ⊢
    obtain ⟨hinv, hr0⟩ := hi
    have hg := hinv.r_eq_gcd hr0
    have hpos : Nat.gcd s.opa s.opn ≠ 0 := Nat.gcd_ne_zero_right hn
    have hr1 : s.work.r = 1 := by omega
    exact .inl ⟨hg ▸ hr1, hnoinv, hinv.inverse hr1⟩
  case powmodEnds hp hi0 =>
    rw [hp] at hi ⊢
    exact ⟨hnoinv, hi.result hi0⟩
  case belowTwo hp hn =>
    rw [hp]
    exact ⟨hnoinv, .inl ⟨by omega, rfl⟩⟩
  case twoOrThree hp hn =>
    rw [hp]
    exact ⟨hnoinv, .inr (.inl ⟨hn, rfl⟩)⟩
  case roundsEnd hp hc =>
    rw [hp] at hi hdraw ⊢
    obtain ⟨⟨hn, hsplit⟩, hodd, -⟩ := hi
    exact ⟨hnoinv, .inr (.inr ⟨hn, _, _, hsplit, hodd, .inl ⟨rfl, hc ▸ hdraw.2⟩⟩)⟩
  case squareIsOne hp hj hy hn h1 =>
    rw [hp] at hi hdraw ⊢
    obtain ⟨hwit, -, -, hround⟩ := hi
    obtain ⟨-, hpassed, ha⟩ := hdraw
    have hcomp := hround.trans (squaringVerdict_one hj hy h1)
    exact ⟨hnoinv, .inr (.inr (hwit.verdict_composite hpassed ha hcomp))⟩
  case roundFails hp hy =>
    rw [hp] at hi hdraw ⊢
    obtain ⟨hwit, hround⟩ := hi
    obtain ⟨-, hpassed, ha⟩ := hdraw
    exact ⟨hnoinv, .inr (.inr (hwit.verdict_composite hpassed ha (hround.trans (if_neg hy))))⟩

end Sys2Proof.Machine
end

section
/-! Primes pass every witness round, and n − 1 splits in one way only (R154, R166). -/

namespace Sys2Proof.Machine

/-- Modulo a prime only 1 and −1 square to 1. -/
theorem eq_one_or_minus_one_of_square {n y : Nat} (hn : Nat.Prime n) (hy : y < n)
    (h1 : y * y % n = 1) : y = 1 ∨ y + 1 = n := by
  have hpos : y ≠ 0 := by rintro rfl; simp at h1
  have hdvd : n ∣ (y - 1) * (y + 1) := by
    have hle : 1 ≤ y * y := Nat.one_le_iff_ne_zero.2 (mul_ne_zero hpos hpos)
    have hsq : (y - 1) * (y + 1) = y * y - 1 := by
      rw [mul_comm, ← Nat.sq_sub_sq, sq, one_pow]
    rw [hsq]
    exact (Nat.modEq_iff_dvd' hle).1 (by rw [Nat.ModEq, h1, Nat.mod_eq_of_lt hn.one_lt])
  rcases hn.dvd_mul.1 hdvd with h | h
  · exact .inl (by have := Nat.eq_zero_of_dvd_of_lt h (by omega); omega)
  · exact .inr (Nat.le_antisymm hy (Nat.le_of_dvd (by omega) h))

/-- The squaring loop passes modulo a prime when the squarings left bring y to 1 (R166). -/
theorem squaringVerdict_of_prime {n : Nat} (hn : Nat.Prime n) (left : Nat) {y : Nat} (hy : y < n)
    (h1 : y ≠ 1) (hpow : y ^ 2 ^ (left + 1) % n = 1) : squaringVerdict n left y = .pass := by
  induction left generalizing y with
  | zero =>
    rw [zero_add, pow_one, pow_two] at hpow
    rw [squaringVerdict, if_pos ((eq_one_or_minus_one_of_square hn hy hpow).resolve_left h1)]
  | succ left ih =>
    by_cases hm : y + 1 = n
    · exact squaringVerdict_of_minus_one _ hm
    · have hsq : y * y % n ≠ 1 := fun hsq =>
        (eq_one_or_minus_one_of_square hn hy hsq).elim h1 hm
      rw [squaringVerdict, if_neg hm, if_neg hsq]
      refine ih (Nat.mod_lt _ hn.pos) hsq ?_
      rw [← Nat.pow_mod, ← pow_two, ← pow_mul, ← pow_succ', hpow]

/-- No witness condemns a prime (R166). -/
theorem MRRound_of_prime {n k m a : Nat} (hn : Nat.Prime n) (hsplit : n = 2 ^ k * m + 1) (ha : 2 ≤ a)
    (ha' : a + 2 ≤ n) : MRRound n k m a = .pass := by
  have hfermat : a ^ (2 ^ k * m) % n = 1 := by
    have hcop : Nat.Coprime a n :=
      (Nat.coprime_of_lt_prime (by omega) (by omega) hn).symm
    have htotient := Nat.ModEq.pow_totient hcop
    rwa [Nat.totient_prime hn, hsplit, Nat.add_sub_cancel, ← hsplit, Nat.ModEq,
      Nat.mod_eq_of_lt hn.one_lt] at htotient
  by_cases hy : a ^ m % n = 1 ∨ a ^ m % n + 1 = n
  · exact MRRound_passes rfl hy
  · have h1 : a ^ m % n ≠ 1 := fun h => hy (.inl h)
    have hk : k ≠ 0 := by
      rintro rfl
      rw [pow_zero, one_mul] at hfermat
      exact h1 hfermat
    rw [MRRound_squares rfl hy]
    refine squaringVerdict_of_prime hn _ (Nat.mod_lt _ hn.pos) h1 ?_
    rw [← Nat.pow_mod, ← pow_mul, mul_comm m, Nat.sub_add_cancel (Nat.one_le_iff_ne_zero.2 hk), hfermat]

/-- A number has one odd part (R154). -/
theorem two_pow_mul_odd_inj {k m k' m' : Nat} (hm : m % 2 = 1) (hm' : m' % 2 = 1)
    (h : 2 ^ k * m = 2 ^ k' * m') : k = k' ∧ m = m' := by
  induction k generalizing k' with
  | zero =>
    cases k' with
    | zero => simpa using h
    | succ k' => rw [pow_zero, one_mul, pow_succ', mul_assoc] at h; omega
  | succ k ih =>
    cases k' with
    | zero => rw [pow_zero, one_mul, pow_succ', mul_assoc] at h; omega
    | succ k' =>
      rw [pow_succ', pow_succ', mul_assoc, mul_assoc] at h
      obtain ⟨hk, hmm⟩ := ih (Nat.eq_of_mul_eq_mul_left two_pos h)
      exact ⟨congrArg _ hk, hmm⟩

/-- A witness for n ≥ 4 is in [2, n − 2] (R156). -/
theorem witness_bounds (s : State) {n : Nat} (hn : 4 ≤ n) (x : Nat) :
    2 ≤ witness s n x ∧ witness s n x + 2 ≤ n := by
  have hlt : s.answerAt (n - 3) x < n - 3 := Nat.mod_lt _ (by omega)
  unfold witness
  omega

/-- The verdict on a prime is 1 (R166). -/
theorem RoundsVerdict.of_prime {s : State} {n iters k m res : Nat}
    (h : RoundsVerdict s n iters k m res) (hp : Nat.Prime n) (hn : 4 ≤ n)
    (hsplit : n = 2 ^ k * m + 1) : res = 1 := by
  rcases h with ⟨hres, -⟩ | ⟨-, e, -, -, hcomp⟩
  · exact hres
  · obtain ⟨ha, ha'⟩ := witness_bounds s hn e
    rw [MRRound_of_prime hp hsplit ha ha'] at hcomp
    cases hcomp

end Sys2Proof.Machine
end

section
/-! The host's scripts at the port, line by line, and the pseudo-instructions (R91, R92). -/

namespace Sys2Proof.Machine

variable {s₀ s t : State} {i : Instr} {rest : List Event}

/-! ### Carrying out events -/

/-- Given enough steps, the events pending in `s` are carried out and leave `t`. -/
def Drains (s t : State) : Prop := ∃ turns, drain turns s = .ok t

theorem Drains.of_nil (hs : s.schedule = []) : Drains s s := ⟨0, by simp [drain, hs]⟩

theorem Drains.of_step {e : Event} {s' : State} (hs : s.schedule = e :: rest) (h : step s = .next s')
    (hd : Drains s' t) : Drains s t := by
  obtain ⟨turns, hd⟩ := hd
  exact ⟨turns + 1, by simpa [drain, hs, h] using hd⟩

theorem Drains.of_writeOpa {v : Nat} (hs : s.schedule = .write 2#3 v :: rest)
    (ha : accepting s = true) (hd : Drains { s with schedule := rest, opa := v } t) : Drains s t :=
  .of_step hs ((acceptedOperandWriteSetsOnlyItsRegister s _ v rest hs (accepting_iff.1 ha)).1 rfl) hd

theorem Drains.of_writeOpb {v : Nat} (hs : s.schedule = .write 3#3 v :: rest)
    (ha : accepting s = true) (hd : Drains { s with schedule := rest, opb := v } t) : Drains s t :=
  .of_step hs ((acceptedOperandWriteSetsOnlyItsRegister s _ v rest hs (accepting_iff.1 ha)).2.1 rfl) hd

theorem Drains.of_writeOpn {v : Nat} (hs : s.schedule = .write 4#3 v :: rest)
    (ha : accepting s = true) (hd : Drains { s with schedule := rest, opn := v } t) : Drains s t :=
  .of_step hs ((acceptedOperandWriteSetsOnlyItsRegister s _ v rest hs (accepting_iff.1 ha)).2.2 rfl) hd

theorem Drains.of_read {addr : PortAddr} (hs : s.schedule = .read addr :: rest)
    (hd : Drains { s with
      schedule := rest, seen := .read addr (portValue addr s) :: s.seen } t) : Drains s t :=
  .of_step hs (step_of_cons hs) hd

/-- A poll of `wait` that finds the engine still ends it (R91). -/
theorem Drains.of_wait_still (hs : s.schedule = .wait :: rest) (hb : s.state ≠ .busy)
    (hd : Drains { s with
      schedule := rest, seen := .read 1#3 (statusByte s).toNat :: s.seen } t) : Drains s t :=
  .of_step hs ((step_of_wait hs).trans (by rw [if_neg hb])) hd

/-- A poll of `wait` that finds the engine BUSY gives it one turn (R91; log 7). -/
theorem Drains.of_wait_busy {s' : State} (hs : s.schedule = .wait :: rest) (hb : s.state = .busy)
    (hm : microStep (observe (.read 1#3 (statusByte s).toNat) s) = .next s')
    (hd : Drains s' t) : Drains s t := by
  refine .of_step hs ((step_of_wait hs).trans (by rw [if_pos hb])) (.of_step rfl ?_ hd)
  rw [step_of_engine rfl, ← hs, engineTurn_busy]
  · exact hm
  · exact hb

/-! ### From the issue of a command to its result -/

/-- The command `i` issued in `s₀` has completed in `v`, with its result and on the operands it was issued
with. -/
structure Completed (i : Instr) (s₀ v : State) : Prop where
  done   : v.state = .done
  result : CommandResult i s₀ v.noinv v.res
  opa    : v.opa = s₀.opa
  opb    : v.opb = s₀.opb
  opn    : v.opn = s₀.opn

theorem Running.completed {v : State} (h : Running i s₀ s) (hm : MicroCase s v) (hd : v.state = .done) :
    Completed i s₀ v := by
  obtain ⟨hsame, -⟩ := microStep_frame hm.microStep_eq
  exact ⟨hd, h.result hm hd, hsame.opa.trans h.opa, hsame.opb.trans h.opb, hsame.opn.trans h.opn⟩

/-- The end of `wait` in a script: `v`, whose STATUS is the last value read, with the rest of the script
pending. -/
def afterWait (v : State) (rest : List Event) (seen : List Observation) : State :=
  { v with schedule := rest, seen := .read 1#3 (statusByte v).toNat :: seen }

/-- The end of a pseudo-instruction's script: STATUS and RES of `v` are the last two values read. -/
def afterScript (v : State) (seen : List Observation) : State :=
  { v with schedule := [], seen := .read 5#3 v.res :: .read 1#3 (statusByte v).toNat :: seen }

/-- `wait` ends, with the command completed: each turn of the engine makes the variant smaller. -/
theorem Running.drains_wait (h : Running i s₀ s) (hs : s.schedule = .wait :: rest) :
    ∃ v os, Completed i s₀ v ∧ ∀ t, Drains (afterWait v rest os) t → Drains s t := by
  induction hvar : variant s using WellFoundedLT.induction generalizing s with
  | ind _ ih =>
    have hpolled : Running i s₀ (observe (.read 1#3 (statusByte s).toNat) s) :=
      h.environment s.schedule _
    obtain ⟨v, hm⟩ := hpolled.phaseInv.exists_microCase
    have hvs : v.schedule = .wait :: rest := (microStep_frame hm.microStep_eq).1.schedule.trans hs
    have hturn : ∀ t, Drains v t → Drains s t := fun t =>
      Drains.of_wait_busy hs h.busy hm.microStep_eq
    by_cases hd : v.state = .done
    · exact ⟨v, v.seen, hpolled.completed hm hd, fun t ht =>
        hturn t (.of_wait_still hvs (by simp [hd]) ht)⟩
    · obtain ⟨w, os, hw, hdrains⟩ := ih (variant v) (hvar ▸ hm.variant_lt hpolled.phaseInv hd)
        (hpolled.goesOn hm hd) hvs rfl
      exact ⟨w, os, hw, fun t ht => hturn t (hdrains t ht)⟩

/-- The word of a command, then `wait`, in IDLE or DONE: the command runs to its result. -/
theorem drains_command (hs : s.schedule = .write 0#3 (encodeWord i) :: .wait :: rest)
    (ha : accepting s = true) (hn : i = .modinv ∨ i = .powmod → s.opn ≠ 0) :
    ∃ v os, Completed i s v ∧ ∀ t, Drains (afterWait v rest os) t → Drains s t := by
  obtain ⟨v, os, hv, hdrains⟩ := (Running.started i s (.wait :: rest) hn).drains_wait (rest := rest)
    (by simp)
  exact ⟨v, os, hv, fun t ht => .of_step hs (step_of_command hs ha hn) (hdrains t ht)⟩

/-- The reads that end a script: RES, or STATUS and RES. -/
def resultReads (withStatus : Bool) : List Event :=
  if withStatus then [.read 1#3, .read 5#3] else [.read 5#3]

/-- The reads after `wait` leave STATUS and RES as the last values the host has seen. -/
theorem drains_resultReads (withStatus : Bool) (v : State) (os : List Observation) :
    ∃ os', Drains (afterWait v (resultReads withStatus) os) (afterScript v os') := by
  cases withStatus
  · exact ⟨_, .of_read rfl (.of_nil rfl)⟩
  · exact ⟨_, .of_read rfl (.of_read rfl (.of_nil rfl))⟩

/-- STATUS and RES as the host reads them in DONE: STATE is DONE and NOINV is bit 2 (R26, R92). -/
theorem statusByte_done (hd : s.state = .done) :
    (statusByte s).toNat % 4 = RunState.code .done ∧
      decide ((statusByte s).toNat / 4 % 2 = 1) = s.noinv := by
  obtain ⟨-, hn, -, -⟩ := status_fields_le s
  have hcode : s.state.code = 2 := by rw [hd]; rfl
  rw [statusByte_toNat, hcode]
  have hbit : (2 + 4 * s.noinv.toNat + 8 * s.herr.toNat + 16 * s.cause.code) / 4 % 2 =
      s.noinv.toNat := by omega
  refine ⟨show _ % 4 = 2 by omega, ?_⟩
  rw [hbit]
  cases s.noinv <;> rfl

/-- A script that leaves STATUS and RES of a completed command read last gives the host NOINV and RES. -/
theorem callEngine_of_drains {script : List ScriptLine} {v : State} {os : List Observation}
    (hd : v.state = .done)
    (h : Drains { s with schedule := script.map scriptEvent } (afterScript v os)) :
    ∃ turns, callEngine turns script s = .ok ((v.noinv, v.res), afterScript v os) := by
  obtain ⟨turns, h⟩ := h
  obtain ⟨hcode, hnoinv⟩ := statusByte_done hd
  exact ⟨turns, by
    simp [callEngine, perform, h, lastStatusAndResult, afterScript, hcode, hnoinv]⟩

/-- A script whose operand writes lead to `s₁`, where a command's word, `wait` and the reads are pending,
gives the host the command's result on the operands of `s₁` (R92). -/
theorem callEngine_command {script : List ScriptLine} {s₁ : State} {withStatus : Bool}
    (hwrites : ∀ t, Drains s₁ t → Drains { s with schedule := script.map scriptEvent } t)
    (hs : s₁.schedule = .write 0#3 (encodeWord i) :: .wait :: resultReads withStatus)
    (ha : accepting s₁ = true) (hn : i = .modinv ∨ i = .powmod → s₁.opn ≠ 0) :
    ∃ turns noinv res t, callEngine turns script s = .ok ((noinv, res), t) ∧
      CommandResult i s₁ noinv res ∧
      t.state = .done ∧ t.opa = s₁.opa ∧ t.opb = s₁.opb ∧ t.opn = s₁.opn := by
  obtain ⟨v, os, hv, hdrains⟩ := drains_command hs ha hn
  obtain ⟨os', hreads⟩ := drains_resultReads withStatus v os
  obtain ⟨turns, hcall⟩ := callEngine_of_drains hv.done (hwrites _ (hdrains _ hreads))
  exact ⟨turns, _, _, _, hcall, hv.result, hv.done, hv.opa, hv.opb, hv.opn⟩

/-! ### The four pseudo-instructions -/

theorem callEngine_gcd (ha : accepting s = true) (a b : Nat) :
    ∃ turns t, callEngine turns (gcdScript a b) s = .ok ((false, Nat.gcd a b), t) ∧
      t.state = .done ∧ t.opa = a ∧ t.opb = b ∧ t.opn = s.opn := by
  obtain ⟨turns, _, _, t, hcall, ⟨rfl, rfl⟩, ht⟩ := callEngine_command (script := gcdScript a b)
    (i := .gcd) (withStatus := false) (fun _ h => .of_writeOpa rfl ha (.of_writeOpb rfl ha h)) rfl ha
    (by simp)
  exact ⟨turns, t, hcall, ht⟩

theorem callEngine_modinv (ha : accepting s = true) (a : Nat) {n : Nat} (hn : n ≠ 0) :
    ∃ turns noinv res t, callEngine turns (modinvScript a n) s = .ok ((noinv, res), t) ∧
      ((Nat.gcd a n = 1 ∧ noinv = false ∧ res < n ∧ (n : Int) ∣ (a : Int) * res - 1) ∨
        (Nat.gcd a n ≠ 1 ∧ noinv = true ∧ res = 0)) ∧
      t.state = .done := by
  obtain ⟨turns, noinv, res, t, hcall, hres, hd, -⟩ :=
    callEngine_command (script := modinvScript a n) (i := .modinv) (withStatus := true)
      (fun _ h => .of_writeOpa rfl ha (.of_writeOpn rfl ha h)) rfl ha (fun _ => hn)
  exact ⟨turns, noinv, res, t, hcall, hres, hd⟩

theorem callEngine_powmod (ha : accepting s = true) (a d : Nat) {n : Nat} (hn : n ≠ 0) :
    ∃ turns t, callEngine turns (powmodScript a d n) s = .ok ((false, powmodResult a d n), t) ∧
      t.state = .done := by
  obtain ⟨turns, _, _, t, hcall, ⟨rfl, rfl⟩, hd, -⟩ :=
    callEngine_command (script := powmodScript a d n) (i := .powmod) (withStatus := false)
      (fun _ h => .of_writeOpa rfl ha (.of_writeOpb rfl ha (.of_writeOpn rfl ha h))) rfl ha
      (fun _ => hn)
  exact ⟨turns, t, hcall, hd⟩

/-- For ISPRIME the witnesses are numbered from the state the script begins in: its operand writes leave the
generator as it is (log 2). -/
theorem callEngine_isprime (ha : accepting s = true) (n iters : Nat) :
    ∃ turns res t, callEngine turns (isprimeScript n iters) s = .ok ((false, res), t) ∧
      (n < 2 ∧ res = 0 ∨ (n = 2 ∨ n = 3) ∧ res = 1 ∨
        4 ≤ n ∧ ∃ k m, n = 2 ^ k * m + 1 ∧ m % 2 = 1 ∧ RoundsVerdict s n iters k m res) ∧
      t.state = .done := by
  obtain ⟨turns, _, res, t, hcall, ⟨rfl, hres⟩, hd, -⟩ :=
    callEngine_command (script := isprimeScript n iters) (i := .isprime) (withStatus := false)
      (fun _ h => .of_writeOpn rfl ha (.of_writeOpb rfl ha h)) rfl ha (by simp)
  exact ⟨turns, res, t, hcall, hres, hd⟩

/-- Settles O42: each script runs its command to its result, and for ISPRIME the split of n − 1 is the one
given and no witness condemns a prime. -/
theorem pseudoInstructionsReturnTheirResults : Obligations.PseudoInstructionsReturnTheirResults := by
  intro s ha
  refine ⟨callEngine_gcd ha, fun a n hn hg => ?_, fun a n hn hg => ?_, fun a d n hn => ?_,
    fun n iters k m hsplit => ?_⟩
  · obtain ⟨turns, _, o, t, hcall, ⟨-, rfl, hlt, hdvd⟩ | ⟨hng, -⟩, -⟩ := callEngine_modinv ha a hn
    · exact ⟨turns, o, t, hcall, hlt, hdvd⟩
    · exact absurd hg hng
  · obtain ⟨turns, _, _, t, hcall, ⟨hg1, -⟩ | ⟨-, rfl, rfl⟩, -⟩ := callEngine_modinv ha a hn
    · exact absurd hg1 hg
    · exact ⟨turns, t, hcall⟩
  · obtain ⟨turns, t, hcall, -⟩ := callEngine_powmod ha a d hn
    exact ⟨turns, t, hcall⟩
  · obtain ⟨turns, o, t, hcall, hres, -⟩ := callEngine_isprime ha n iters
    refine ⟨turns, o, t, hcall, ?_⟩
    rcases hres with ⟨hn, rfl⟩ | ⟨hn, rfl⟩ | ⟨hn, k', m', hsplit', hodd', hverdict⟩
    · exact ⟨fun _ => rfl, by omega, by omega, fun hp => absurd hp.two_le (by omega)⟩
    · exact ⟨by omega, fun _ => rfl, by omega, fun _ => rfl⟩
    · obtain ⟨hsplit, hodd⟩ := hsplit hn
      obtain ⟨rfl, rfl⟩ := two_pow_mul_odd_inj hodd' hodd
        (Nat.add_right_cancel (hsplit'.symm.trans hsplit))
      exact ⟨by omega, by omega, fun _ => hverdict, fun hp => hverdict.of_prime hp hn hsplit⟩

end Sys2Proof.Machine
end

section
/-! GCD from its issue to its result (R100 to R103). -/

namespace Sys2Proof.Machine

variable {s : State}

/-- With gb = 0 the turn at G_LOOP completes with ga (R102). -/
theorem engineTurn_gcd_ends (hb : s.state = .busy) (hp : s.phase = .gLoop) (hgb : s.work.gb = 0) :
    engineTurn s = .next (complete s.work.ga s) :=
  (engineTurn_busy hb).trans (MicroCase.gcdEnds hp hgb rfl).microStep_eq

/-- With gb ≠ 0 the turn at G_LOOP is one step of Euclid's (R102). -/
theorem engineTurn_gcd_reduces (hb : s.state = .busy) (hp : s.phase = .gLoop)
    (hgb : s.work.gb ≠ 0) :
    engineTurn s = .next { s with
      work := { s.work with ga := s.work.gb, gb := s.work.ga % s.work.gb } } := by
  rw [engineTurn_busy hb, (MicroCase.gcdReduces hp hgb rfl).microStep_eq, ← hp]

/-- Settles O21, from the two branches of the turn at G_LOOP. -/
theorem gcdMicroStepReducesOrCompletes : Obligations.GcdMicroStepReducesOrCompletes :=
  fun _ hb hp => ⟨engineTurn_gcd_ends hb hp, engineTurn_gcd_reduces hb hp⟩

/-- A turn that leaves the engine BUSY with RES as it was comes in front of a run whose turns do. -/
theorem engineRun_busy_succ {s' : State} {n : Nat} (h : engineTurn s = .next s')
    (hb : s.state = .busy) (hres : s'.res = s.res)
    (hrun : ∀ k, k < n → ∃ u, engineRun k s' = .next u ∧ u.state = .busy ∧ u.res = s'.res) :
    ∀ k, k < n + 1 → ∃ u, engineRun k s = .next u ∧ u.state = .busy ∧ u.res = s.res := by
  intro k hk
  cases k with
  | zero => exact ⟨s, rfl, hb, rfl⟩
  | succ k =>
    rw [engineRun_succ h, ← hres]
    exact hrun k (Nat.lt_of_succ_lt_succ hk)

/-- From any pair at G_LOOP the engine reaches its greatest common divisor in at most gb + 1 turns, because
each reducing turn makes gb smaller (R103); until then it is BUSY with RES as it was. -/
theorem engineRun_gcd (hb : s.state = .busy) (hp : s.phase = .gLoop) :
    ∃ n w, n ≤ s.work.gb + 1 ∧
      engineRun n s = .next { s with
        res := Nat.gcd s.work.ga s.work.gb, state := .done, work := w } ∧
      ∀ k, k < n → ∃ u, engineRun k s = .next u ∧ u.state = .busy ∧ u.res = s.res := by
  induction hgb : s.work.gb using Nat.strong_induction_on generalizing s with
  | _ gb ih =>
    subst hgb
    by_cases hgb : s.work.gb = 0
    · have hturn := engineTurn_gcd_ends hb hp hgb
      refine ⟨1, s.work, by omega, ?_, ?_⟩
      · rw [engineRun_succ hturn, engineRun_zero, hgb, Nat.gcd_zero_right, complete]
      · intro k hk
        obtain rfl : k = 0 := by omega
        exact ⟨s, rfl, hb, rfl⟩
    · have hturn := engineTurn_gcd_reduces hb hp hgb
      have hlt : s.work.ga % s.work.gb < s.work.gb := Nat.mod_lt _ (Nat.pos_of_ne_zero hgb)
      obtain ⟨n, w, hn, hrun, hbusy⟩ := ih _ hlt (s := { s with
        work := { s.work with ga := s.work.gb, gb := s.work.ga % s.work.gb } }) hb hp rfl
      refine ⟨n + 1, w, by omega, ?_, engineRun_busy_succ hturn hb rfl hbusy⟩
      rw [engineRun_succ hturn, hrun, gcd_euclid_step]

/-- Settles O28: GCD starts with (ga, gb) = (OPA, OPB) and RES = 0, and the turns at G_LOOP bring that pair to
its greatest common divisor. -/
theorem gcdRunsToTheGreatestCommonDivisor : Obligations.GcdRunsToTheGreatestCommonDivisor := by
  intro s ha
  exact ⟨_, exec_started ha (by simp), rfl,
    engineRun_gcd (s := acceptCommand .gcd (startCommand .gcd (clearOutcome s))) rfl rfl⟩

end Sys2Proof.Machine
end

section
/-! The step in which a command completes, under every interleaving (R70, R103, R110, R130, R161, R166). -/

namespace Sys2Proof.Machine

variable {s t : State}

/-- Whatever the host does, a step from BUSY to DONE is a completing micro-step. -/
theorem microCase_of_completion (h : step s = .next t) (hb : s.state = .busy) (hd : t.state = .done) :
    ∃ rest, MicroCase { s with schedule := rest } t := by
  have hna : accepting s ≠ true := fun ha => ne_busy_of_accepting ha hb
  cases step_case h with
  | micro rest _ _ hm => exact ⟨rest, microStep_case hm⟩
  | stillTurn _ _ hnb _ => exact absurd hb hnb
  | wroteOpa _ _ _ ha _ | wroteOpb _ _ _ ha _ | wroteOpn _ _ _ ha _ | illegal _ _ _ ha _ _
  | modZero _ _ _ ha _ _ _ | started _ _ _ ha _ _ => exact absurd ha hna
  | dropped _ _ _ _ _ ht | read _ _ _ ht | wait _ _ ht | draw _ _ _ _ ht => simp [ht, hb] at hd
  | reset _ _ ht => simp [ht] at hd

/-! ### GCD, MODINV and POWMOD -/

/-- A command that draws nothing has the same account of the draws from any of its states on. -/
theorem drawInv_of_ne_isprime (hp : s.phase.command ≠ .isprime) (s₀ : State) : DrawInv s₀ s := by
  unfold DrawInv
  cases hph : s.phase <;> rw [hph] at hp
  case gLoop | iLoop | iFin | pLoop => trivial
  case sPre | sSplit | sRound | sPow | sCheck | sSq | sEnd => exact absurd rfl hp

/-- Under the invariant a command other than ISPRIME is running on the operands the state holds, whenever it
was issued. -/
theorem State.Inv.running_self (h : s.Inv) (hb : s.state = .busy)
    (hp : s.phase.command ≠ .isprime) : Running s.phase.command s s :=
  ⟨hb, rfl, h.control.noinv_false (by simp [hb]), rfl, rfl, rfl, (h.running hb).2,
    drawInv_of_ne_isprime hp s⟩

/-- The completing micro-step of a command other than ISPRIME leaves the command's result. -/
theorem State.Inv.result_of_ne_isprime (h : s.Inv) (hb : s.state = .busy)
    (hp : s.phase.command ≠ .isprime) {rest : List Event}
    (hm : MicroCase { s with schedule := rest } t) (hd : t.state = .done) :
    CommandResult s.phase.command s t.noinv t.res :=
  ((h.running_self hb hp).environment rest s.seen).result hm hd

/-! ### ISPRIME -/

/-- Some witness of [2, n − 2] condemns n (R161). -/
def Condemned (n : Nat) : Prop :=
  ∃ k m a, n = 2 ^ k * m + 1 ∧ m % 2 = 1 ∧ 2 ≤ a ∧ a + 2 ≤ n ∧ MRRound n k m a = .composite

/-- No prime is condemned (R166). -/
theorem Condemned.not_prime {n : Nat} (h : Condemned n) : ¬ Nat.Prime n := by
  intro hn
  obtain ⟨k, m, a, hsplit, -, ha, ha', hcomp⟩ := h
  rw [MRRound_of_prime hn hsplit ha ha'] at hcomp
  cases hcomp

/-- A round with the verdict COMPOSITE condemns OPN by its witness. -/
theorem WitnessInv.condemned (h : WitnessInv s)
    (hcomp : MRRound s.opn s.work.k s.work.m s.work.a = .composite) : Condemned s.opn := by
  obtain ⟨⟨-, hsplit⟩, hodd, -, ha, ha'⟩ := h
  exact ⟨_, _, _, hsplit, hodd, ha, ha', hcomp⟩

/-- The completing micro-step of ISPRIME leaves 1, or it leaves 0 and OPN is below 2 or condemned by the
witness of the running round (R153, R155, R159, R160). -/
theorem MicroCase.isprime_verdict (h : MicroCase s t) (hi : PhaseInv s) (hb : s.state = .busy)
    (hp : s.phase.command = .isprime) (hd : t.state = .done) :
    t.res = 1 ∨ t.res = 0 ∧ (s.opn < 2 ∨ Condemned s.opn) := by
  unfold PhaseInv at hi
  cases h <;> subst t
  case gcdReduces | euclidEnds | euclidReduces | powmodIterates | splitBegins | splitHalves | splitEnds
      | roundBegins | witnessPowerEnds | witnessPowerIterates | checkPasses | squaringBegins | squares
      | squaringEnds | roundPasses => simp [hb] at hd
  case gcdEnds hph _ | noInverse hph _ | inverse hph _ _ | powmodEnds hph _ =>
    simp [hph, Phase.command] at hp
  case belowTwo hn => exact .inr ⟨rfl, .inl (by omega)⟩
  case twoOrThree | roundsEnd => exact .inl rfl
  case squareIsOne hph hj hy _ h1 =>
    rw [hph] at hi
    obtain ⟨hwit, -, -, hround⟩ := hi
    exact .inr ⟨rfl, .inr (hwit.condemned (hround.trans (squaringVerdict_one hj hy h1)))⟩
  case roundFails hph hy =>
    rw [hph] at hi
    obtain ⟨hwit, hround⟩ := hi
    exact .inr ⟨rfl, .inr (hwit.condemned (hround.trans (if_neg hy)))⟩

/-- Settles O39: the completing step is a micro-step, the command is the one LASTOP names, and the invariant
of its last phase gives the result. -/
theorem completionLeavesTheResultUnderEveryInterleaving :
    Obligations.CompletionLeavesTheResultUnderEveryInterleaving := by
  intro s t h hb hstep hd
  obtain ⟨rest, hm⟩ := microCase_of_completion hstep hb hd
  obtain ⟨hl, hi⟩ := h.running hb
  have command : ∀ i, s.lastop = opcode i → s.phase.command = i := fun i hlast =>
    opcode_injective (hl.symm.trans hlast)
  have result : ∀ i, i ≠ .isprime → s.lastop = opcode i → CommandResult i s t.noinv t.res := by
    rintro i hne hlast
    obtain rfl := command i hlast
    exact h.result_of_ne_isprime hb hne hm hd
  obtain ⟨hsame, -⟩ := microStep_frame hm.microStep_eq
  refine ⟨fun hlast => ?_, fun hlast => ?_, fun hlast => ?_, fun hlast => ?_,
    hsame.opa, hsame.opb, hsame.opn, hsame.lastop⟩
  · exact (result .gcd (by simp) hlast).2
  · rcases result .modinv (by simp) hlast with ⟨hg, hinverse⟩ | ⟨hg, hnone⟩
    · exact ⟨fun _ => hinverse, absurd hg⟩
    · exact ⟨fun h1 => absurd h1 hg, fun _ => hnone⟩
  · exact (result .powmod (by simp) hlast).2
  · rcases hm.isprime_verdict hi hb (command .isprime hlast) hd with hone | ⟨hzero, hwhy⟩
    · exact ⟨.inr hone, by simp [hone], fun _ => hone⟩
    · refine ⟨.inl hzero, fun _ => hwhy, fun hprime => ?_⟩
      rcases hwhy with hlt | hcond
      · exact absurd hprime.two_le (Nat.not_le.2 hlt)
      · exact absurd hprime hcond.not_prime

end Sys2Proof.Machine
end

section
/-! MODINV's turns, and the equations they keep (R112 to R117). -/

namespace Sys2Proof.Machine

variable {s : State}

/-- With r′ = 0 the turn at I_LOOP goes to I_FIN (R114). -/
theorem engineTurn_euclid_ends (hb : s.state = .busy) (hp : s.phase = .iLoop) (hr : s.work.r' = 0) :
    engineTurn s = .next { s with phase := .iFin } :=
  (engineTurn_busy hb).trans (MicroCase.euclidEnds hp hr rfl).microStep_eq

/-- With r′ ≠ 0 the turn at I_LOOP updates the three pairs (R114). -/
theorem engineTurn_euclid_reduces (hb : s.state = .busy) (hp : s.phase = .iLoop)
    (hr : s.work.r' ≠ 0) : engineTurn s = .next { s with work := reduceModinv s.work } := by
  rw [engineTurn_busy hb, (MicroCase.euclidReduces hp hr rfl).microStep_eq, ← hp]

/-- With r > 1 the turn at I_FIN completes with NOINV (R117). -/
theorem engineTurn_noInverse (hb : s.state = .busy) (hp : s.phase = .iFin) (hr : 1 < s.work.r) :
    engineTurn s = .next (complete 0 (raiseNoinv s)) :=
  (engineTurn_busy hb).trans (MicroCase.noInverse hp hr rfl).microStep_eq

/-- With r at most 1 and a modulus the turn at I_FIN completes with t brought into [0, OPN) (R116). -/
theorem engineTurn_inverse (hb : s.state = .busy) (hp : s.phase = .iFin) (hr : ¬ 1 < s.work.r)
    (hn : s.opn ≠ 0) : engineTurn s = .next (complete (emod s.work.t s.opn) s) :=
  (engineTurn_busy hb).trans (MicroCase.inverse hp hr hn rfl).microStep_eq

/-- Settles O22, from the turn of each branch: q is the floor of r / r′ by the two bounds of `Nat` division,
and RES is congruent to t by the rule of `emod`. -/
theorem modinvMicroStepsFollowTheRecurrence : Obligations.ModinvMicroStepsFollowTheRecurrence := by
  intro s hb
  refine ⟨engineTurn_euclid_ends hb, fun hp hr => ?_, fun hp hn hr => ?_, engineTurn_noInverse hb⟩
  · have hle : s.work.r / s.work.r' * s.work.r' ≤ s.work.r := Nat.div_mul_le_self _ _
    have hlt : s.work.r < (s.work.r / s.work.r' + 1) * s.work.r' :=
      Nat.lt_mul_of_div_lt (Nat.lt_succ_self _) (Nat.pos_of_ne_zero hr)
    exact ⟨reduceModinv s.work, engineTurn_euclid_reduces hb hp hr, hle, hlt, rfl,
      Nat.sub_add_cancel hle, reduceModinv_r_prime_eq_mod _, rfl, rfl, rfl, rfl, rfl⟩
  · exact ⟨_, engineTurn_inverse hb hp (Nat.not_lt.2 hr) hn, emod_spec _ hn⟩

/-- Settles O27: accepting loads pairs that satisfy Bézout's equations, going to I_FIN leaves them, and a
reducing turn keeps the equations. -/
theorem modinvKeepsBezoutsEquations : Obligations.ModinvKeepsBezoutsEquations := by
  refine ⟨fun s ha hn => ⟨_, exec_started ha fun _ => hn, acceptCommand_phaseInv .modinv _ fun _ => hn⟩,
    fun s t hb hp hinv hturn => ?_⟩
  by_cases hr : s.work.r' = 0
  · rw [engineTurn_euclid_ends hb hp hr] at hturn
    cases hturn
    exact hinv
  · rw [engineTurn_euclid_reduces hb hp hr] at hturn
    cases hturn
    exact hinv.reduce s.phase

end Sys2Proof.Machine
end

section
/-! MODINV from its issue to its result (R110 to R119). -/

namespace Sys2Proof.Machine

variable {s₀ s : State}

/-- A number has at most one inverse in [0, n): o′ − o = o·(a·o′ − 1) − o′·(a·o − 1). -/
theorem inverse_unique {a n o o' : Nat} (ho : o < n) (ho' : o' < n)
    (h : (n : Int) ∣ (a : Int) * o - 1) (h' : (n : Int) ∣ (a : Int) * o' - 1) : o' = o := by
  have hdiff : (n : Int) ∣ (o' : Int) - o := by
    have hcombine : (o' : Int) - o = o' * ((a : Int) * o - 1) * -1 + o * ((a : Int) * o' - 1) := by
      ring
    rw [hcombine]
    exact dvd_add ((h.mul_left _).mul_right _) (h'.mul_left _)
  exact ((Nat.modEq_iff_dvd.2 hdiff).eq_of_lt_of_lt ho ho').symm

/-- With a modulus of at least 2, an inverse multiplies to the remainder 1 (R119). -/
theorem mul_inverse_mod {a n o : Nat} (hn : 2 ≤ n) (h : (n : Int) ∣ (a : Int) * o - 1) :
    a * o % n = 1 := by
  have hmod : 1 ≡ a * o [MOD n] := Nat.modEq_iff_dvd.2 (by exact_mod_cast h)
  rw [← hmod, Nat.mod_eq_of_lt hn]

/-- MODINV, issued in `s₀` and running in `s`, completes after at most `turns` turns of the engine left to
itself, BUSY with RES as it was until then, with its result and nothing outside the command changed. -/
def ModinvCompletesWithin (turns : Nat) (s₀ s : State) : Prop :=
  ∃ n o flag w, n ≤ turns ∧
    engineRun n s = .next { s with
      res := o, noinv := flag, state := .done, phase := .iFin, work := w } ∧
    CommandResult .modinv s₀ flag o ∧
    ∀ k, k < n → ∃ u, engineRun k s = .next u ∧ u.state = .busy ∧ u.res = s.res

/-- A turn that moves only PHASE and the working registers comes before a run that completes. -/
theorem ModinvCompletesWithin.of_turn {turns : Nat} {ph : Phase} {w : Work} (hb : s.state = .busy)
    (hturn : engineTurn s = .next { s with phase := ph, work := w })
    (h : ModinvCompletesWithin turns s₀ { s with phase := ph, work := w }) :
    ModinvCompletesWithin (turns + 1) s₀ s := by
  obtain ⟨n, o, flag, w', hn, hrun, hresult, hbusy⟩ := h
  exact ⟨n + 1, o, flag, w', Nat.succ_le_succ hn, (engineRun_succ hturn n).trans hrun, hresult,
    engineRun_busy_succ hturn hb rfl hbusy⟩

/-- A bound on the turns can be raised. -/
theorem ModinvCompletesWithin.mono {m n : Nat} (h : ModinvCompletesWithin m s₀ s) (hmn : m ≤ n) :
    ModinvCompletesWithin n s₀ s := by
  obtain ⟨k, o, flag, w, hk, hrun⟩ := h
  exact ⟨k, o, flag, w, hk.trans hmn, hrun⟩

/-- The turn at I_FIN completes the command with its result (R116, R117). -/
theorem Running.modinvCompletes_iFin (h : Running .modinv s₀ s) (hp : s.phase = .iFin) :
    ModinvCompletesWithin 1 s₀ s := by
  have hcompletes : ∃ o flag, MicroCase s { s with res := o, noinv := flag, state := .done } := by
    by_cases hr : 1 < s.work.r
    · exact ⟨0, true, .noInverse hp hr rfl⟩
    · have hn : s.opn ≠ 0 := by
        have hi := h.phaseInv
        rw [PhaseInv, hp] at hi
        exact Nat.one_le_iff_ne_zero.1 hi.1.1
      exact ⟨emod s.work.t s.opn, s.noinv, .inverse hp hr hn rfl⟩
  obtain ⟨o, flag, hm⟩ := hcompletes
  refine ⟨1, o, flag, s.work, le_rfl, ?_, h.result hm rfl, fun k hk => ?_⟩
  · rw [engineRun_succ ((engineTurn_busy h.busy).trans hm.microStep_eq), engineRun_zero, ← hp]
  · obtain rfl : k = 0 := Nat.lt_one_iff.1 hk
    exact ⟨s, rfl, h.busy, rfl⟩

/-- From I_LOOP the command completes after at most r′ + 2 turns: a reducing turn makes r′ smaller, and with
r′ = 0 there are two more (R115). -/
theorem Running.modinvCompletes_iLoop (h : Running .modinv s₀ s) (hp : s.phase = .iLoop) :
    ModinvCompletesWithin (s.work.r' + 2) s₀ s := by
  induction hvar : s.work.r' using Nat.strong_induction_on generalizing s with
  | _ r' ih =>
    subst hvar
    have hrun : s.state ≠ .done := by simp [h.busy]
    by_cases hr : s.work.r' = 0
    · have hfin := (h.goesOn (.euclidEnds hp hr rfl) hrun).modinvCompletes_iFin rfl
      exact (hfin.of_turn h.busy (engineTurn_euclid_ends h.busy hp hr)).mono (by omega)
    · have hlt : (reduceModinv s.work).r' < s.work.r' := by
        rw [reduceModinv_r_prime_eq_mod]
        exact Nat.mod_lt _ (Nat.pos_of_ne_zero hr)
      have hloop := ih _ hlt (h.goesOn (.euclidReduces hp hr rfl) hrun) rfl rfl
      have hturn := engineTurn_euclid_reduces h.busy hp hr
      rw [← hp] at hloop
      exact (hloop.of_turn h.busy hturn).mono (by omega)

/-- Settles O29: MODINV starts at I_LOOP with r′ = OPA and RES = 0, it completes with its result after at most
r′ + 2 turns, and an inverse in [0, OPN) is the only one. -/
theorem modinvRunsToTheInverseOrNoinv : Obligations.ModinvRunsToTheInverseOrNoinv := by
  intro s ha hn
  obtain ⟨n, o, flag, w, hle, hrun, hresult, hbusy⟩ :=
    (Running.started .modinv s s.schedule fun _ => hn).modinvCompletes_iLoop rfl
  refine ⟨_, exec_started ha fun _ => hn, rfl, n, o, flag, w, hle, hrun, fun hg => ?_, fun hg => ?_,
    hbusy⟩
  · obtain ⟨-, hflag, hlt, hdvd⟩ | ⟨hne, -⟩ := hresult
    · exact ⟨hflag, hlt, hdvd, fun o' hlt' hdvd' => inverse_unique hlt hlt' hdvd hdvd',
        fun h2 => mul_inverse_mod h2 hdvd⟩
    · exact absurd hg hne
  · obtain ⟨hone, -⟩ | ⟨-, hnone⟩ := hresult
    · exact absurd hone hg
    · exact hnone

end Sys2Proof.Machine
end

section
/-! POWMOD's turns, and POWMOD from its issue to its result (R130 to R136). -/

namespace Sys2Proof.Machine

variable {s : State}

/-- With i = 0 the turn at P_LOOP completes with v (R133). -/
theorem engineTurn_powmod_ends (hb : s.state = .busy) (hp : s.phase = .pLoop) (hi : s.work.i = 0) :
    engineTurn s = .next (complete s.work.v s) :=
  (engineTurn_busy hb).trans (MicroCase.powmodEnds hp hi rfl).microStep_eq

/-- With i ≠ 0 and a modulus the turn at P_LOOP is one square-and-multiply (R133). -/
theorem engineTurn_powmod_iterates (hb : s.state = .busy) (hp : s.phase = .pLoop)
    (hi : s.work.i ≠ 0) (hn : s.opn ≠ 0) :
    engineTurn s = .next { s with work := squareMultiply s.opn s.work } := by
  rw [engineTurn_busy hb, (MicroCase.powmodIterates hp hi hn rfl).microStep_eq, ← hp]

/-- Settles O23, from the two branches of the turn at P_LOOP. -/
theorem powmodMicroStepSquaresAndMultiplies : Obligations.PowmodMicroStepSquaresAndMultiplies :=
  fun _ hb hp => ⟨engineTurn_powmod_ends hb hp, engineTurn_powmod_iterates hb hp⟩

/-- From P_LOOP the engine reaches POWMOD's result in exactly bitlen(i) + 1 turns: each iteration takes one bit
off i and keeps the invariant (R134), and the last turn completes; until then it is BUSY with RES as it was. -/
theorem engineRun_powmod (h : PowmodInv s) (hb : s.state = .busy) (hp : s.phase = .pLoop) :
    ∃ w, engineRun (bitlen s.work.i + 1) s = .next { s with
        res := powmodResult s.opa s.opb s.opn, state := .done, work := w } ∧
      ∀ k, k < bitlen s.work.i + 1 →
        ∃ u, engineRun k s = .next u ∧ u.state = .busy ∧ u.res = s.res := by
  induction hvar : s.work.i using Nat.strong_induction_on generalizing s with
  | _ i ih =>
    subst hvar
    by_cases hi : s.work.i = 0
    · refine ⟨s.work, ?_, fun k hk => ?_⟩
      · rw [hi, bitlen_zero, engineRun_succ (engineTurn_powmod_ends hb hp hi), engineRun_zero,
          h.result hi, complete]
      · rw [hi, bitlen_zero] at hk
        obtain rfl : k = 0 := by omega
        exact ⟨s, rfl, hb, rfl⟩
    · have hturn := engineTurn_powmod_iterates hb hp hi (Nat.one_le_iff_ne_zero.1 h.1)
      have hlt : s.work.i / 2 < s.work.i := Nat.div_lt_self (Nat.pos_of_ne_zero hi) one_lt_two
      obtain ⟨w, hrun, hbusy⟩ := ih _ hlt (h.iterate hi s.phase) hb hp rfl
      rw [bitlen_half hi]
      exact ⟨w, (engineRun_succ hturn _).trans hrun, engineRun_busy_succ hturn hb rfl hbusy⟩

/-- With a modulus of at least 2 the result is the power's remainder, for the exponent 0 as well (R136). -/
theorem powmodResult_of_two_le (a d : Nat) {n : Nat} (hn : 2 ≤ n) :
    powmodResult a d n = a ^ d % n := by
  rw [powmodResult]
  split
  next hd => rw [hd, pow_zero, Nat.mod_eq_of_lt hn]
  next => rfl

/-- Modulo 1 only the exponent 0 gives 1: v is then never reduced (R135). -/
theorem powmodResult_one (a d : Nat) : powmodResult a d 1 = if d = 0 then 1 else 0 := by
  rw [powmodResult, Nat.mod_one]

/-- Settles O30: POWMOD starts at P_LOOP with i = OPB, RES = 0 and its invariant, and the turns there reach
`powmodResult`, which is the power modulo 2 and up. -/
theorem powmodRunsToThePower : Obligations.PowmodRunsToThePower := by
  intro s ha hn
  have hinv : PowmodInv (acceptCommand .powmod (startCommand .powmod (clearOutcome s))) :=
    acceptCommand_phaseInv .powmod _ fun _ => hn
  obtain ⟨w, hrun, hbusy⟩ := engineRun_powmod hinv rfl rfl
  refine ⟨_, exec_started ha fun _ => hn, rfl, _, w, hrun, fun h2 => ?_, fun h1 => ?_, hbusy⟩
  · exact powmodResult_of_two_le _ _ h2
  · exact (congrArg (powmodResult s.opa s.opb) h1).trans (powmodResult_one _ _)

end Sys2Proof.Machine
end

section
/-! ISPRIME's turns (R153 to R160). -/

namespace Sys2Proof.Machine

variable {s : State}

/-- A guarded branch of the micro-step is the turn of a running engine. -/
theorem MicroCase.engineTurn_eq {t : State} (h : MicroCase s t) (hb : s.state = .busy) :
    engineTurn s = .next t :=
  (engineTurn_busy hb).trans h.microStep_eq

/-- A turn that leaves PHASE as it was, whose branch names it (R30). -/
theorem MicroCase.engineTurn_eq_of_phase {ph : Phase} {w : Work}
    (h : MicroCase s { s with work := w, phase := ph }) (hb : s.state = .busy) (hp : s.phase = ph) :
    engineTurn s = .next { s with work := w } := by
  subst hp
  exact h.engineTurn_eq hb

/-- Settles O24, from the branches of the turns at S_PRE and S_SPLIT. -/
theorem isprimeSmallCasesAndSplit : Obligations.IsprimeSmallCasesAndSplit := by
  intro s hb
  refine ⟨fun hp => ⟨fun hn => ?_, fun hn => ?_, fun hn => ?_⟩, fun hp => ⟨fun hm => ?_, fun hm => ?_⟩⟩
  · exact (MicroCase.belowTwo hp hn rfl).engineTurn_eq hb
  · exact (MicroCase.twoOrThree hp hn rfl).engineTurn_eq hb
  · exact (MicroCase.splitBegins hp hn rfl).engineTurn_eq hb
  · exact (MicroCase.splitHalves hp hm rfl).engineTurn_eq_of_phase hb hp
  · exact (MicroCase.splitEnds hp hm rfl).engineTurn_eq hb

/-- The turn that begins a round takes one answer of the generator as its witness (R155, R156). -/
theorem engineTurn_roundBegins (hb : s.state = .busy) (hp : s.phase = .sRound)
    (hc : s.work.c ≠ s.opb) (hn : 4 ≤ s.opn) :
    engineTurn s = .next { s with
      answers := s.answers.tail, requests := (s.opn - 3) :: s.requests, phase := .sPow
      work := { s.work with
        a := nextAnswer (s.opn - 3) s + 2, v := 1, p := nextAnswer (s.opn - 3) s + 2
        i := s.work.m } } :=
  (MicroCase.roundBegins hp hc (by omega) rfl).engineTurn_eq hb

/-- Settles O25: the witness is the next answer, which is below the bound, and a listed value below the bound
is the next answer. -/
theorem isprimeRoundDrawsOneWitness : Obligations.IsprimeRoundDrawsOneWitness := by
  intro s hb hp
  refine ⟨fun hc => (MicroCase.roundsEnd hp hc rfl).engineTurn_eq hb, fun hc hn => ⟨?_, ?_⟩⟩
  · exact ⟨_, nextAnswer_lt (by omega) s, engineTurn_roundBegins hb hp hc hn⟩
  · intro u hu more
    have hturn := engineTurn_roundBegins (s := { s with answers := u :: more }) hb hp hc hn
    rwa [nextAnswer_listed hu] at hturn

/-- Settles O26, from the branches of the turns at S_POW, S_CHECK, S_SQ and S_END; the model tests y + 1 = OPN
for y = OPN − 1. -/
theorem isprimeWitnessRoundMicroSteps : Obligations.IsprimeWitnessRoundMicroSteps := by
  intro s hb hn
  have hn0 : s.opn ≠ 0 := by omega
  have hminus : s.work.y = s.opn - 1 ↔ s.work.y + 1 = s.opn := by omega
  rw [ne_eq s.work.y (s.opn - 1), hminus]
  refine ⟨fun hp => ⟨fun hi => ?_, fun hi => ?_⟩, fun hp => ⟨fun hy => ?_, fun h1 hy => ?_⟩,
    fun hp => ⟨fun hj hy h1 => ?_, fun hj hy h1 => ?_, fun hend => ?_⟩,
    fun hp => ⟨fun hy => ?_, fun hy => ?_⟩⟩
  · exact (MicroCase.witnessPowerEnds hp hi rfl).engineTurn_eq hb
  · exact (MicroCase.witnessPowerIterates hp hi hn0 rfl).engineTurn_eq_of_phase hb hp
  · exact (MicroCase.checkPasses hp hy rfl).engineTurn_eq hb
  · exact (MicroCase.squaringBegins hp (not_or.2 ⟨h1, hy⟩) rfl).engineTurn_eq hb
  · rw [(MicroCase.squareIsOne hp hj hy hn0 h1 rfl).engineTurn_eq hb, h1, complete]
  · exact (MicroCase.squares hp hj hy hn0 h1 rfl).engineTurn_eq_of_phase hb hp
  · exact (MicroCase.squaringEnds hp (by omega) rfl).engineTurn_eq hb
  · exact (MicroCase.roundFails hp hy rfl).engineTurn_eq hb
  · exact (MicroCase.roundPasses hp hy rfl).engineTurn_eq hb

end Sys2Proof.Machine
end

section
/-! What a witness round decides (R161, R166). -/

namespace Sys2Proof.Machine

/-- One of y and its first `left` iterated squares is −1 modulo n (R161). -/
def ReachesMinusOne (n left y : Nat) : Prop := ∃ e, e ≤ left ∧ y ^ 2 ^ e % n = n - 1

theorem pow_two_pow_zero_mod_eq_iff {n y : Nat} (hy : y < n) :
    y ^ 2 ^ 0 % n = n - 1 ↔ y + 1 = n := by
  rw [pow_zero, pow_one, Nat.mod_eq_of_lt hy]
  omega

theorem reachesMinusOne_zero_iff {n y : Nat} (hy : y < n) : ReachesMinusOne n 0 y ↔ y + 1 = n := by
  simp only [ReachesMinusOne, Nat.le_zero, exists_eq_left, pow_two_pow_zero_mod_eq_iff hy]

/-- The squares of y are y and the squares of its square. -/
theorem reachesMinusOne_succ_iff {n y : Nat} (left : Nat) (hy : y < n) :
    ReachesMinusOne n (left + 1) y ↔ y + 1 = n ∨ ReachesMinusOne n left (y * y % n) := by
  have hsquare : ∀ e, y ^ 2 ^ (e + 1) % n = (y * y % n) ^ 2 ^ e % n := fun e => by
    rw [← Nat.pow_mod, ← pow_two, ← pow_mul, ← pow_succ']
  constructor
  · rintro ⟨e, he, hpow⟩
    cases e with
    | zero => exact .inl ((pow_two_pow_zero_mod_eq_iff hy).1 hpow)
    | succ e => exact .inr ⟨e, Nat.le_of_succ_le_succ he, (hsquare e).symm.trans hpow⟩
  · rintro (hm | ⟨e, he, hpow⟩)
    · exact ⟨0, Nat.zero_le _, (pow_two_pow_zero_mod_eq_iff hy).2 hm⟩
    · exact ⟨e + 1, Nat.succ_le_succ he, (hsquare e).trans hpow⟩

/-- After a square that is 1 every square is 1. -/
theorem not_reachesMinusOne_one {n : Nat} (hn : 3 ≤ n) (left : Nat) : ¬ ReachesMinusOne n left 1 := by
  rintro ⟨e, -, hpow⟩
  rw [one_pow, Nat.mod_eq_of_lt (by omega)] at hpow
  omega

/-- The squaring loop passes exactly when a square that it may compute is −1 (R161). -/
theorem squaringVerdict_eq_pass_iff {n : Nat} (hn : 3 ≤ n) (left : Nat) {y : Nat} (hy : y < n) :
    squaringVerdict n left y = .pass ↔ ReachesMinusOne n left y := by
  induction left generalizing y with
  | zero =>
    rw [squaringVerdict, reachesMinusOne_zero_iff hy]
    split <;> simp [*]
  | succ left ih =>
    rw [squaringVerdict, reachesMinusOne_succ_iff left hy]
    split
    next hm => simp [hm]
    next hm =>
      rw [or_iff_right hm]
      split
      next h1 => simp [h1, not_reachesMinusOne_one hn]
      next h1 => exact ih (Nat.mod_lt _ (by omega))

/-- Settles O33: a round that its first power does not pass is decided by the squares of that power. -/
theorem witnessRoundPassesExactlyOnStrongProbablePrimes :
    Obligations.WitnessRoundPassesExactlyOnStrongProbablePrimes := by
  intro n k m a hn
  have hpow : ∀ e, a ^ (2 ^ e * m) % n = (a ^ m % n) ^ 2 ^ e % n := fun e => by
    rw [← Nat.pow_mod, ← pow_mul, mul_comm m]
  by_cases h1 : a ^ m % n = 1
  · exact iff_of_true (MRRound_passes rfl (.inl h1)) (.inl h1)
  by_cases hm : a ^ m % n + 1 = n
  · refine iff_of_true (MRRound_passes rfl (.inr hm)) (.inr ⟨0, Nat.zero_le _, ?_⟩)
    rw [pow_zero, one_mul]
    omega
  · rw [MRRound_squares rfl (not_or.2 ⟨h1, hm⟩), or_iff_right h1,
      squaringVerdict_eq_pass_iff (by omega) _ (Nat.mod_lt _ (by omega)), ReachesMinusOne]
    simp only [hpow]

/-- Settles O34: modulo a prime only 1 and −1 square to 1. -/
theorem noWitnessCondemnsAPrime : Obligations.NoWitnessCondemnsAPrime :=
  fun _ _ _ _ => MRRound_of_prime

end Sys2Proof.Machine
end

section
/-! ISPRIME from its issue to its verdict, with its draws (R150, R152, R161 to R163). -/

namespace Sys2Proof.Machine

variable {s₀ s t : State} {k m : Nat}

/-- The rounds an ISPRIME has started: the completed ones, and the one that is running (R155). -/
def roundsStarted (s : State) : Nat :=
  match s.phase with
  | .sRound => s.work.c
  | .sPow | .sCheck | .sSq | .sEnd => s.work.c + 1
  | _ => 0

/-- The requests of a command issued in `s₀`: one with the bound OPN − 3 for each round started, and no other
(R163). -/
def RequestsRecorded (s₀ s : State) : Prop :=
  s.requests = List.replicate (roundsStarted s) (s.opn - 3) ++ s₀.requests

/-- A micro-step that goes on keeps the record of the requests. -/
theorem MicroCase.requestsRecorded (h : MicroCase s t) (hr : RequestsRecorded s₀ s)
    (hrun : t.state ≠ .done) : RequestsRecorded s₀ t := by
  unfold RequestsRecorded roundsStarted at hr
  cases h <;> subst t
  case gcdEnds | noInverse | inverse | powmodEnds | belowTwo | twoOrThree | roundsEnd | squareIsOne
      | roundFails => simp at hrun
  case roundBegins hp _ _ =>
    rw [hp] at hr
    exact congrArg ((s.opn - 3) :: ·) hr
  case gcdReduces hp _ | euclidEnds hp _ | euclidReduces hp _ | powmodIterates hp _ _
      | splitBegins hp _ | splitHalves hp _ | splitEnds hp _ | witnessPowerEnds hp _
      | witnessPowerIterates hp _ _ | checkPasses hp _ | squaringBegins hp _ | squares hp _ _ _ _
      | squaringEnds hp _ | roundPasses hp _ =>
    rw [hp] at hr
    exact hr

/-- The account of the draws says how many answers ISPRIME has used: one for each round started. -/
theorem DrawInv.drawn (h : DrawInv s₀ s) (hcmd : s.phase.command = .isprime) :
    Drawn s₀ s (roundsStarted s) := by
  unfold DrawInv at h
  unfold roundsStarted
  cases hp : s.phase <;> rw [hp] at h hcmd
  case gLoop | iLoop | iFin | pLoop => cases hcmd
  case sPre | sSplit => exact h
  case sRound | sPow | sCheck | sSq | sEnd => exact h.1

/-- The verdict `o` of an ISPRIME issued in `s₀` with n = 2^k·m + 1, and its number of draws `e`: none for
n below 4; else OPB, all rounds passing, or those up to the first round that fails (R161, R163). -/
def IsprimeVerdict (s₀ : State) (k m e o : Nat) : Prop :=
  (s₀.opn < 2 → o = 0 ∧ e = 0) ∧
  (s₀.opn = 2 ∨ s₀.opn = 3 → o = 1 ∧ e = 0) ∧
  (4 ≤ s₀.opn →
    (o = 1 ∧ e = s₀.opb ∧ ∀ x, x < s₀.opb → MRRound s₀.opn k m (witness s₀ s₀.opn x) = .pass) ∨
    (o = 0 ∧ 1 ≤ e ∧ e ≤ s₀.opb ∧
      (∀ x, x < e - 1 → MRRound s₀.opn k m (witness s₀ s₀.opn x) = .pass) ∧
      MRRound s₀.opn k m (witness s₀ s₀.opn (e - 1)) = .composite))

/-- All rounds have passed. -/
theorem IsprimeVerdict.passed (hn : 4 ≤ s₀.opn)
    (h : ∀ x, x < s₀.opb → MRRound s₀.opn k m (witness s₀ s₀.opn x) = .pass) :
    IsprimeVerdict s₀ k m s₀.opb 1 :=
  ⟨by omega, by omega, fun _ => .inl ⟨rfl, rfl, h⟩⟩

/-- Round `c`, counting from 0, is the first that does not pass. -/
theorem IsprimeVerdict.failed {c : Nat} (hn : 4 ≤ s₀.opn) (hc : c < s₀.opb)
    (hpass : ∀ x, x < c → MRRound s₀.opn k m (witness s₀ s₀.opn x) = .pass)
    (hcomp : MRRound s₀.opn k m (witness s₀ s₀.opn c) = .composite) :
    IsprimeVerdict s₀ k m (c + 1) 0 :=
  ⟨by omega, by omega, fun _ => .inr ⟨rfl, Nat.succ_pos c, hc, hpass, hcomp⟩⟩

/-- The working registers hold the only complete split of OPN − 1, and rounds are rounds on it (R154). -/
theorem SplitInv.MRRound_eq (h : SplitInv s) (hodd : s.work.m % 2 = 1) (hopn : s.opn = s₀.opn)
    (hsplit : 4 ≤ s₀.opn → s₀.opn = 2 ^ k * m + 1 ∧ m % 2 = 1) (a : Nat) :
    MRRound s₀.opn s.work.k s.work.m a = MRRound s₀.opn k m a := by
  obtain ⟨hn, hwork⟩ := h
  obtain ⟨hgiven, hm⟩ := hsplit (hopn ▸ hn)
  obtain ⟨hk, hm⟩ := two_pow_mul_odd_inj hodd hm (Nat.succ.inj (hwork.symm.trans (hopn.trans hgiven)))
  rw [hk, hm]

/-- A running round with the verdict COMPOSITE gives the verdict 0, with a draw for every round started. -/
theorem WitnessInv.isprimeVerdict (h : WitnessInv s) (hopb : s.opb = s₀.opb) (hopn : s.opn = s₀.opn)
    (hsplit : 4 ≤ s₀.opn → s₀.opn = 2 ^ k * m + 1 ∧ m % 2 = 1)
    (hpassed : RoundsPassed s₀ s) (ha : s.work.a = witness s₀ s.opn s.work.c)
    (hcomp : MRRound s.opn s.work.k s.work.m s.work.a = .composite) :
    IsprimeVerdict s₀ k m (s.work.c + 1) 0 := by
  obtain ⟨hsp, hodd, hc, -⟩ := h
  have hn : 4 ≤ s₀.opn := hopn ▸ hsp.1
  simp only [RoundsPassed, hsp.MRRound_eq hodd hopn hsplit, hopn] at hpassed
  rw [ha, hopn, hsp.MRRound_eq hodd hopn hsplit] at hcomp
  exact .failed hn (hopb ▸ hc) hpassed hcomp

/-- The completing micro-step of ISPRIME gives its verdict, after as many draws as rounds were started. -/
theorem Running.isprimeVerdict (h : Running .isprime s₀ s)
    (hsplit : 4 ≤ s₀.opn → s₀.opn = 2 ^ k * m + 1 ∧ m % 2 = 1) (hm : MicroCase s t)
    (hd : t.state = .done) : IsprimeVerdict s₀ k m (roundsStarted s) t.res := by
  obtain ⟨hb, hcmd, -, -, hopb, hopn, hi, hdraw⟩ := h
  unfold PhaseInv at hi
  unfold DrawInv at hdraw
  unfold roundsStarted
  cases hm <;> subst t
  case gcdReduces | euclidEnds | euclidReduces | powmodIterates | splitBegins | splitHalves | splitEnds
      | roundBegins | witnessPowerEnds | witnessPowerIterates | checkPasses | squaringBegins | squares
      | squaringEnds | roundPasses => simp [hb] at hd
  case gcdEnds hp _ | noInverse hp _ | inverse hp _ _ | powmodEnds hp _ => rw [hp] at hcmd; cases hcmd
  case belowTwo hp hn =>
    rw [hp]
    exact ⟨fun _ => ⟨rfl, rfl⟩, by omega, by omega⟩
  case twoOrThree hp hn =>
    rw [hp]
    exact ⟨by omega, fun _ => ⟨rfl, rfl⟩, by omega⟩
  case roundsEnd hp hc =>
    rw [hp] at hi hdraw ⊢
    obtain ⟨hsp, hodd, -⟩ := hi
    obtain ⟨-, hpassed⟩ := hdraw
    have hn : 4 ≤ s₀.opn := hopn ▸ hsp.1
    simp only [RoundsPassed, hsp.MRRound_eq hodd hopn hsplit, hopn, hc, hopb] at hpassed
    simp only [hc, hopb]
    exact .passed hn hpassed
  case squareIsOne hp hj hy _ h1 =>
    rw [hp] at hi hdraw ⊢
    obtain ⟨hwit, -, -, hround⟩ := hi
    obtain ⟨-, hpassed, ha⟩ := hdraw
    exact hwit.isprimeVerdict hopb hopn hsplit hpassed ha
      (hround.trans (squaringVerdict_one hj hy h1))
  case roundFails hp hy =>
    rw [hp] at hi hdraw ⊢
    obtain ⟨hwit, hround⟩ := hi
    obtain ⟨-, hpassed, ha⟩ := hdraw
    exact hwit.isprimeVerdict hopb hopn hsplit hpassed ha (hround.trans (if_neg hy))

/-- A micro-step that goes on moves PHASE, the working registers and the generator only. -/
theorem MicroCase.eq_of_goesOn (h : MicroCase s t) (hrun : t.state ≠ .done) :
    t = { s with phase := t.phase, work := t.work, answers := t.answers, requests := t.requests } := by
  cases h <;> subst t
  case gcdEnds | noInverse | inverse | powmodEnds | belowTwo | twoOrThree | roundsEnd | squareIsOne
      | roundFails => simp at hrun
  all_goals rfl

/-- A micro-step that completes ISPRIME writes RES, STATE and working registers only. -/
theorem MicroCase.eq_of_isprime_completes (h : MicroCase s t) (hb : s.state = .busy)
    (hcmd : s.phase.command = .isprime) (hd : t.state = .done) :
    t = { s with res := t.res, state := .done, work := t.work } := by
  cases h <;> subst t
  case belowTwo | twoOrThree | roundsEnd | squareIsOne | roundFails => rfl
  case gcdEnds hp _ | noInverse hp _ | inverse hp _ _ | powmodEnds hp _ => rw [hp] at hcmd; cases hcmd
  all_goals simp [hb] at hd

/-- ISPRIME, issued in `s₀` and running in `s`, completes when the engine is left to itself, BUSY with RES as
it was until then, with its verdict, the draws that belong to it, and nothing outside the command changed. -/
def IsprimeCompletes (s₀ : State) (k m : Nat) (s : State) : Prop :=
  ∃ n e o ph w,
    engineRun n s = .next { s with
      res := o, state := .done, phase := ph, work := w, answers := s₀.answers.drop e
      requests := List.replicate e (s₀.opn - 3) ++ s₀.requests } ∧
    IsprimeVerdict s₀ k m e o ∧
    ∀ j, j < n → ∃ u, engineRun j s = .next u ∧ u.state = .busy ∧ u.res = s.res

/-- A turn that moves PHASE, the working registers and the generator comes before a run that completes. -/
theorem IsprimeCompletes.of_turn {ph : Phase} {w : Work} {answers requests : List Nat}
    (hb : s.state = .busy)
    (hturn : engineTurn s = .next { s with
      phase := ph, work := w, answers := answers, requests := requests })
    (h : IsprimeCompletes s₀ k m { s with
      phase := ph, work := w, answers := answers, requests := requests }) :
    IsprimeCompletes s₀ k m s := by
  obtain ⟨n, e, o, ph', w', hrun, hverdict, hbusy⟩ := h
  exact ⟨n + 1, e, o, ph', w', (engineRun_succ hturn n).trans hrun, hverdict,
    engineRun_busy_succ hturn hb rfl hbusy⟩

/-- The micro-step that completes ISPRIME leaves its verdict and has the record of its draws before it. -/
theorem Running.isprimeCompletes_last (h : Running .isprime s₀ s) (hr : RequestsRecorded s₀ s)
    (hsplit : 4 ≤ s₀.opn → s₀.opn = 2 ^ k * m + 1 ∧ m % 2 = 1) (hm : MicroCase s t)
    (hd : t.state = .done) : IsprimeCompletes s₀ k m s := by
  refine ⟨1, roundsStarted s, t.res, s.phase, t.work, ?_, h.isprimeVerdict hsplit hm hd, fun j hj => ?_⟩
  · obtain ⟨hans, -⟩ := h.drawInv.drawn h.command
    rw [engineRun_succ (hm.engineTurn_eq h.busy), engineRun_zero, ← hans, ← h.opn, ← hr]
    exact congrArg _ (hm.eq_of_isprime_completes h.busy h.command hd)
  · obtain rfl : j = 0 := Nat.lt_one_iff.1 hj
    exact ⟨s, rfl, h.busy, rfl⟩

/-- A running ISPRIME completes: every turn that does not complete it makes the variant smaller (R162). -/
theorem Running.isprimeCompletes (h : Running .isprime s₀ s) (hr : RequestsRecorded s₀ s)
    (hsplit : 4 ≤ s₀.opn → s₀.opn = 2 ^ k * m + 1 ∧ m % 2 = 1) : IsprimeCompletes s₀ k m s := by
  induction hvar : variant s using WellFoundedLT.induction generalizing s with
  | ind _ ih =>
    obtain ⟨t, hm⟩ := h.phaseInv.exists_microCase
    by_cases hd : t.state = .done
    · exact h.isprimeCompletes_last hr hsplit hm hd
    · have hrest := ih (variant t) (hvar ▸ hm.variant_lt h.phaseInv hd) (h.goesOn hm hd)
        (hm.requestsRecorded hr hd) rfl
      have hturn := hm.engineTurn_eq h.busy
      rw [hm.eq_of_goesOn hd] at hturn hrest
      exact hrest.of_turn h.busy hturn

/-- Settles O31: ISPRIME starts at S_PRE with RES = 0 and no draw made, and a running ISPRIME completes with its
verdict. -/
theorem isprimeRunsToTheMillerRabinVerdict : Obligations.IsprimeRunsToTheMillerRabinVerdict := by
  intro s k m ha hsplit
  obtain ⟨n, e, o, ph, w, hrun, ⟨hlow, hsmall, hrounds⟩, hbusy⟩ :=
    (Running.started .isprime s s.schedule (by simp)).isprimeCompletes rfl hsplit
  exact ⟨_, exec_started ha (by simp), rfl, n, e, o, ph, w, hrun, hlow, hsmall, hrounds, hbusy⟩

end Sys2Proof.Machine
end

section
/-! No step stops under the invariant with a well-formed schedule, and the schedule stays well formed (R182,
R303). -/

namespace Sys2Proof.Machine

variable {s t : State}

/-! ### Well-formed schedules -/

theorem scheduleWellFormed_iff {es : List Event} :
    scheduleWellFormed es = true ↔ ∀ e ∈ es, e.wellFormed = true :=
  List.all_eq_true

/-- A step keeps the schedule well formed: it adds nothing but turns of the engine. -/
theorem step_scheduleWellFormed (h : step s = .next t) (hs : scheduleWellFormed s.schedule = true) :
    scheduleWellFormed t.schedule = true := by
  rw [scheduleWellFormed_iff] at hs ⊢
  intro e he
  obtain hold | rfl := step_schedule_mem h he
  · exact hs e hold
  · rfl

/-! ### Steps that have a next state -/

/-- Under the invariant a turn of the engine has a next state, whatever is pending (R182). -/
theorem State.Inv.exists_engineTurn (h : s.Inv) (rest : List Event) :
    ∃ t, engineTurn { s with schedule := rest } = .next t := by
  by_cases hb : s.state = .busy
  · have hphase : PhaseInv { s with schedule := rest } := (h.running hb).2
    obtain ⟨t, hm⟩ := hphase.exists_microCase
    exact ⟨t, hm.engineTurn_eq hb⟩
  · exact ⟨_, engineTurn_still hb⟩

/-- Under the invariant a step stops at most at a host draw from an empty range (R12, R303). -/
theorem State.Inv.exists_step (h : s.Inv) (hdraw : ∀ rest, s.schedule ≠ .hostDraw 0 :: rest) :
    ∃ t, step s = .next t := by
  cases hs : s.schedule with
  | nil =>
    obtain ⟨rest, hstep⟩ := step_of_turn (.inl hs)
    exact hstep ▸ h.exists_engineTurn rest
  | cons e rest =>
    cases e with
    | write addr v => exact step_of_write hs ▸ registerWrite_next _ v _
    | read addr => exact ⟨_, step_of_cons hs⟩
    | reset => exact ⟨_, step_of_reset hs⟩
    | wait => exact ⟨_, step_of_wait hs⟩
    | hostDraw b =>
      have hb : b ≠ 0 := by
        rintro rfl
        exact hdraw rest hs
      exact ⟨_, step_of_hostDraw hs hb⟩
    | engine => exact step_of_engine hs ▸ h.exists_engineTurn rest

/-- Settles O37: the invariant gives every micro-step its next state, a well-formed schedule has no draw from
an empty range, and nothing else can stop a step. -/
theorem noStepStopsUnderTheInvariant : Obligations.NoStepStopsUnderTheInvariant := by
  intro s hinv hwf
  have hdraw : ∀ rest, s.schedule ≠ .hostDraw 0 :: rest := by
    intro rest hs
    have hbound := scheduleWellFormed_iff.1 hwf (.hostDraw 0) (by simp [hs])
    cases hbound
  obtain ⟨t, ht⟩ := hinv.exists_step hdraw
  exact ⟨t, ht, step_scheduleWellFormed ht hwf⟩

end Sys2Proof.Machine
end

section
/-! Bytes, hexadecimal digits and the integers they stand for (R63, R202, R226, R228, R240). -/

namespace Sys2Proof.Machine

/-! ### Sequencing of host routines -/

@[simp] theorem except_ok_bind {ε α β : Type} (a : α) (f : α → Except ε β) :
    (Except.ok a >>= f) = f a := rfl

@[simp] theorem except_error_bind {ε α β : Type} (e : ε) (f : α → Except ε β) :
    (Except.error e >>= f) = .error e := rfl

@[simp] theorem except_pure {ε α : Type} (a : α) : (pure a : Except ε α) = .ok a := rfl

/-! ### Integers and their bytes, as base-256 digits -/

theorem lt_two_pow_bitlen (x : Nat) : x < 2 ^ bitlen x := by
  by_cases hx : x = 0
  · simp [hx]
  · rw [bitlen, if_neg hx]
    exact Nat.lt_log2_self

/-- A function that takes the digits of a number one by one, lowest first, and puts each in front, writes
the number in base `b`: what `exportBytes` and `toHex` share. -/
theorem onto_eq_digits {α : Type} {b : Nat} (hb : 2 ≤ b) {digit : Nat → α}
    {onto : Nat → Nat → List α → List α} (hzero : ∀ x rest, onto 0 x rest = rest)
    (hsucc : ∀ limit x rest, onto (limit + 1) x rest =
      if x = 0 then rest else onto limit (x / b) (digit (x % b) :: rest))
    {limit x : Nat} (h : x < 2 ^ limit) (rest : List α) :
    onto limit x rest = ((Nat.digits b x).map digit).reverse ++ rest := by
  induction limit generalizing x rest with
  | zero =>
    obtain rfl : x = 0 := by omega
    simp [hzero]
  | succ limit ih =>
    rw [hsucc]
    by_cases hx : x = 0
    · simp [hx]
    · have hhalf : x / b ≤ x / 2 := Nat.div_le_div_left hb (by decide)
      rw [if_neg hx, ih (by omega), Nat.digits_def' hb (Nat.pos_of_ne_zero hx)]
      simp

/-- `exportBytes` writes the base-256 digits, most significant first, with no leading zero (R63). -/
theorem exportBytes_eq_digits (m : Nat) :
    exportBytes m = ((Nat.digits 256 m).map (BitVec.ofNat 8)).reverse :=
  (onto_eq_digits (onto := exportBytesOnto) (by decide) (fun _ _ => rfl) (fun _ _ _ => rfl)
    (lt_two_pow_bitlen m) []).trans (List.append_nil _)

theorem exportBytes_length_le_iff (m k : Nat) : (exportBytes m).length ≤ k ↔ m < 256 ^ k := by
  rw [exportBytes_eq_digits, List.length_reverse, List.length_map,
    Nat.digits_length_le_iff (by decide)]

/-- `importBytes` reads the bytes as base-256 digits, most significant first (R63). -/
theorem importBytes_eq_ofDigits (bytes : List Byte) :
    importBytes bytes = Nat.ofDigits 256 (bytes.map BitVec.toNat).reverse := by
  simp [importBytes, Nat.ofDigits_eq_foldr, List.foldl_map, add_comm, mul_comm]

theorem lt_of_mem_byte_digits {bytes : List Byte} {d : Nat}
    (hd : d ∈ (bytes.map BitVec.toNat).reverse) : d < 256 := by
  obtain ⟨byte, -, rfl⟩ := List.mem_map.1 (List.mem_reverse.1 hd)
  exact byte.isLt

theorem digits_importBytes {b : Byte} (hb : b ≠ 0) (bytes : List Byte) :
    Nat.digits 256 (importBytes (b :: bytes)) = ((b :: bytes).map BitVec.toNat).reverse := by
  rw [importBytes_eq_ofDigits]
  refine Nat.digits_ofDigits 256 (by decide) _ (fun d hd => lt_of_mem_byte_digits hd) (fun _ => ?_)
  simpa [← BitVec.toNat_inj] using hb

/-- Bytes that do not begin with a zero are what their integer exports to. -/
theorem exportBytes_importBytes {b : Byte} (hb : b ≠ 0) (bytes : List Byte) :
    exportBytes (importBytes (b :: bytes)) = b :: bytes := by
  rw [exportBytes_eq_digits, digits_importBytes hb, List.map_reverse, List.reverse_reverse,
    List.map_map]
  exact List.map_id'' (fun byte => by simp) _

theorem importBytes_lt (bytes : List Byte) : importBytes bytes < 256 ^ bytes.length := by
  rw [importBytes_eq_ofDigits]
  simpa using Nat.ofDigits_lt_base_pow_length (b := 256) (by decide)
    (fun d hd => lt_of_mem_byte_digits (bytes := bytes) hd)

/-- A block with its sentinel is below the power of 256 that counts its bytes (R202). -/
theorem blockToInteger_lt (bytes : List Byte) : blockToInteger bytes < 256 ^ (bytes.length + 1) :=
  importBytes_lt (0xFF#8 :: bytes)

/-- Settles O44: the sentinel is no zero byte, so the integer's bytes begin with it, and it is dropped. -/
theorem blockMappingIsReversible : Obligations.BlockMappingIsReversible := by
  intro bytes
  rw [integerToBlock, blockToInteger, exportBytes_importBytes (by decide), List.tail_cons]

/-! ### Hexadecimal text -/

theorem hexValue_hexDigit : ∀ d < 16, hexValue (hexDigit d) = some d := by decide

/-- A number other than 0 is written as its base-16 digits, most significant first (R63). -/
theorem toHex_eq_digits {x : Nat} (hx : x ≠ 0) :
    toHex x = (Nat.digits 16 x).reverse.map hexDigit := by
  rw [toHex, if_neg hx, onto_eq_digits (onto := hexOnto) (by decide) (fun _ _ => rfl)
    (fun _ _ _ => rfl) (lt_two_pow_bitlen x), List.append_nil, List.map_reverse]

theorem parseHexFrom_digits {ds : List Nat} (hds : ∀ d ∈ ds, d < 16) (acc : Nat) :
    parseHexFrom acc (ds.map hexDigit) = some (ds.foldl (fun x d => x * 16 + d) acc) := by
  induction ds generalizing acc with
  | nil => rfl
  | cons d ds ih =>
    have hd := hexValue_hexDigit d (hds d List.mem_cons_self)
    simp only [List.map_cons, parseHexFrom, hd]
    exact ih (fun d' hd' => hds d' (List.mem_cons_of_mem _ hd')) _

theorem parseHex_of_ne_nil {line : List Char} (h : line ≠ []) :
    parseHex line = parseHexFrom 0 line := by
  cases line with
  | nil => exact absurd rfl h
  | cons c rest => rfl

@[simp] theorem parseHex_toHex (x : Nat) : parseHex (toHex x) = some x := by
  by_cases hx : x = 0
  · rw [hx]; rfl
  · have hvalue : (Nat.digits 16 x).reverse.foldl (fun y d => y * 16 + d) 0 = x := by
      have h := Nat.ofDigits_digits 16 x
      rw [Nat.ofDigits_eq_foldr] at h
      simpa [add_comm, mul_comm] using h
    have hlt : ∀ d ∈ (Nat.digits 16 x).reverse, d < 16 := fun d hd =>
      Nat.digits_lt_base (by decide) (List.mem_reverse.1 hd)
    have hdigits : (Nat.digits 16 x).reverse.map hexDigit ≠ [] := by
      simpa [Nat.digits_eq_nil_iff_eq_zero] using hx
    rw [toHex_eq_digits hx, parseHex_of_ne_nil hdigits, parseHexFrom_digits hlt, hvalue]

/-- Settles O49: hexadecimal text reads back, and the two lines of a key file are read one by one. -/
theorem hexadecimalTextReadsBack : Obligations.HexadecimalTextReadsBack := by
  refine ⟨parseHex_toHex, fun n owner howner => ?_, fun pq d => ?_⟩
  · simpa [readPublicKey, publicKeyFile] using howner
  · simp [readPrivateKey, privateKeyFile]

end Sys2Proof.Machine
end

section
/-! Sizes: payloads, block lengths and the bit budget (R202, R212, R226, R227, R245). -/

namespace Sys2Proof.Machine

/-! ### Payloads -/

/-- What the payloads of `bytes` are, by the recursion that takes them off one after another: the
statement of O45 for any limit that is large enough. -/
theorem exists_payloads_eq {size limit : Nat} {bytes : List Byte} (hsize : 1 ≤ size)
    (hlimit : bytes.length < limit) :
    ∃ full last, payloads size limit bytes = full ++ [last] ∧ (full ++ [last]).flatten = bytes ∧
      (∀ x ∈ full, x.length = size) ∧ last.length < size ∧ full.length = bytes.length / size := by
  induction limit generalizing bytes with
  | zero => omega
  | succ limit ih =>
    by_cases hshort : bytes.length < size
    · exact ⟨[], bytes, by simp [payloads, hshort], by simp, by simp, hshort,
        by simp [Nat.div_eq_of_lt hshort]⟩
    · have hle : size ≤ bytes.length := Nat.le_of_not_lt hshort
      obtain ⟨full, last, hpay, hflat, hfull, hlast, hcount⟩ :=
        ih (bytes := bytes.drop size) (by rw [List.length_drop]; omega)
      refine ⟨bytes.take size :: full, last, by simp [payloads, hshort, hpay], ?_, ?_, hlast, ?_⟩
      · rw [List.cons_append, List.flatten_cons, hflat, List.take_append_drop]
      · exact List.forall_mem_cons.2 ⟨List.length_take_of_le hle, hfull⟩
      · rw [List.length_cons, hcount, List.length_drop, Nat.div_eq_sub_div hsize hle]

/-- Settles O45, by the recursion of the payloads. -/
theorem payloadsAreFullButTheLastAndLoseNothing :
    Obligations.PayloadsAreFullButTheLastAndLoseNothing :=
  fun _ _ hsize => exists_payloads_eq hsize (Nat.lt_succ_self _)

/-! ### Block lengths -/

/-- p²·q is at most (pq)². -/
theorem mul_mul_le_sq (p : Nat) {q : Nat} (hq : 1 ≤ q) : p * p * q ≤ (p * q) ^ 2 := by
  calc p * p * q ≤ p * p * q * q := Nat.le_mul_of_pos_right _ hq
    _ = (p * q) ^ 2 := by ring

/-- Every integer below p²·q passes the size test for blocks of the key pq (log 18). -/
theorem ciphertextSizeFits_of_lt {p q c : Nat} (hq : 1 ≤ q) (hc : c < p * p * q) :
    ciphertextSizeFits (decryptBlockLength (p * q)) c = true := by
  set k := decryptBlockLength (p * q) with hk
  have hlog : Nat.log2 (p * q) + 1 ≤ 8 * k + 9 := by
    rw [hk, decryptBlockLength, flog2]; omega
  have hpq : p * q < 2 ^ (8 * k + 9) :=
    Nat.lt_log2_self.trans_le (Nat.pow_le_pow_right (by decide) hlog)
  rw [ciphertextSizeFits, decide_eq_true_iff, exportBytes_length_le_iff]
  calc c < (p * q) ^ 2 := hc.trans_le (mul_mul_le_sq p hq)
    _ ≤ (2 ^ (8 * k + 9)) ^ 2 := Nat.pow_le_pow_left hpq.le 2
    _ = 2 ^ (16 * k + 18) := by rw [← pow_mul]; congr 1; ring
    _ ≤ 2 ^ (8 * (2 * k + 3)) := Nat.pow_le_pow_right (by decide) (by omega)
    _ = 256 ^ (2 * k + 3) := by rw [pow_mul]; norm_num

/-- A payload that leaves room for the sentinel makes a block below pq (R202). -/
theorem blockToInteger_lt_mul {p q : Nat} {bytes : List Byte} (hq : 1 ≤ q) (hn : p * p * q ≠ 0)
    (hlen : bytes.length < encryptBlockLength (p * p * q)) : blockToInteger bytes < p * q := by
  set k := encryptBlockLength (p * p * q) with hk
  have hlog : 8 * k * 2 ≤ Nat.log2 (p * p * q) := by
    rw [hk, encryptBlockLength, flog2]; omega
  refine (blockToInteger_lt bytes).trans_le (le_of_not_gt fun hlt => ?_)
  have hbyte : 256 ^ (bytes.length + 1) ≤ 2 ^ (8 * k) := by
    rw [pow_mul]
    exact Nat.pow_le_pow_right (by decide) hlen
  have := calc
    p * p * q ≤ (p * q) ^ 2 := mul_mul_le_sq p hq
    _ < (2 ^ (8 * k)) ^ 2 := Nat.pow_lt_pow_left (hlt.trans_le hbyte) (by decide)
    _ = 2 ^ (8 * k * 2) := (pow_mul _ _ _).symm
    _ ≤ 2 ^ Nat.log2 (p * p * q) := Nat.pow_le_pow_right (by decide) hlog
    _ ≤ p * p * q := Nat.log2_self_le hn
  exact this.false

/-! ### The bit budget -/

/-- Settles O50: p²·q stays below 2^nbits. -/
theorem exactBitCountsNeverMeetTheBitBudget : Obligations.ExactBitCountsNeverMeetTheBitBudget := by
  intro nbits pBits qBits p q hnbits hbudget hp hq
  have hlt : p * p * q < 2 ^ nbits := calc
    p * p * q < 2 ^ pBits * 2 ^ pBits * 2 ^ qBits := by gcongr
    _ = 2 ^ (2 * pBits + qBits) := by ring
    _ ≤ 2 ^ nbits := Nat.pow_le_pow_right (by decide) hbudget
  have hlog : flog2 (p * p * q) < nbits := by
    by_cases hn : p * p * q = 0
    · rw [hn]; exact hnbits
    · exact (Nat.log2_lt hn).2 hlt
  simp [acceptPrimes, hlog]

end Sys2Proof.Machine
end

section
/-! Stream operations: what an item may fail with, and what was emitted before a failure (R242, R245,
R309). -/

namespace Sys2Proof.Machine

variable {α β : Type} {use : α → State → Except HostFailure (β × State)} {xs more : List α}
  {ys : List β} {s t u : State}

/-! ### Failures of the engine's use -/

theorem drain_error {turns : Nat} {e : HostFailure} (h : drain turns s = .error e) :
    e = .outOfTurns ∨ e = .machineStopped := by
  induction turns generalizing s with
  | zero =>
    rw [drain] at h
    split at h
    · cases h
    · cases h; exact .inl rfl
  | succ turns ih =>
    rw [drain] at h
    split at h
    · cases h
    · split at h
      · exact ih h
      · cases h; exact .inr rfl
      · cases h; exact .inr rfl

/-- The ways in which a use of the engine fails (R92, R351; log 9). -/
theorem callEngine_error {turns : Nat} {script : List ScriptLine} {e : HostFailure}
    (h : callEngine turns script s = .error e) :
    e = .outOfTurns ∨ e = .machineStopped ∨ e = .engineFault := by
  rw [callEngine] at h
  split at h
  next hperform =>
    cases h
    exact (drain_error hperform).imp_right .inl
  next s' _ =>
    split at h
    next hread =>
      unfold lastStatusAndResult at hread
      split at hread
      · cases hread
      · cases hread; cases h; exact .inr (.inr rfl)
    next =>
      split at h
      · cases h
      · cases h; exact .inr (.inr rfl)

theorem powerOfBlock_ne_malformedLine (turns m : Nat) (s : State) :
    powerOfBlock turns m s ≠ .error .malformedLine := by
  intro h
  unfold powerOfBlock at h
  cases hcall : callEngine turns [.wr .opa m, .cmd .powmod, .wait, .rd .res] s with
  | ok r => rw [hcall] at h; cases h
  | error e =>
    rw [hcall] at h
    cases h
    simpa using callEngine_error hcall

/-! ### Malformed lines -/

/-- Which lines are malformed: the engine is not asked (R245(e), R309). -/
theorem decryptLine_malformed_iff (turns k : Nat) (line : List Char) (s : State) :
    decryptLine turns k line s = .error .malformedLine ↔
      (parseHex line = none ∨ ∃ c, parseHex line = some c ∧ ciphertextSizeFits k c = false) := by
  unfold decryptLine
  cases parseHex line with
  | none => simp
  | some c =>
    by_cases hfits : ciphertextSizeFits k c = true
    · cases hpower : powerOfBlock turns c s with
      | ok r => simp [hfits, hpower]
      | error e =>
        have he : e ≠ .malformedLine := by
          rintro rfl
          exact powerOfBlock_ne_malformedLine turns c s hpower
        simp [hfits, hpower, he]
    · simp [hfits]

/-- Settles O47: a line is tested before the engine is used, which has no failure of that name. -/
theorem malformedLinesFailBeforeTheEngineIsUsed :
    Obligations.MalformedLinesFailBeforeTheEngineIsUsed := by
  refine ⟨fun turns k line s => ?_, decryptLine_malformed_iff, fun p q _ hq c hc => ?_⟩
  · rw [decryptLine_malformed_iff, decryptLine_malformed_iff]
  · exact ciphertextSizeFits_of_lt (Nat.one_le_of_lt hq) hc

/-! ### Operations that succeed -/

/-- The items `xs` are used one after another from `s` on, none fails, and they give `ys` and leave `t`. -/
inductive Transforms (use : α → State → Except HostFailure (β × State)) :
    List α → State → List β → State → Prop
  | nil (s : State) : Transforms use [] s [] s
  | cons {x : α} {xs : List α} {s s' : State} {y : β} {ys : List β} {t : State} :
      use x s = .ok (y, s') → Transforms use xs s' ys t → Transforms use (x :: xs) s (y :: ys) t

theorem Transforms.length_eq (h : Transforms use xs s ys t) : ys.length = xs.length := by
  induction h with
  | nil => rfl
  | cons _ _ ih => simp [ih]

/-- Items whose outputs the stream takes, `outs n` being the stream that takes `n` writes more and then is
`outs 0`, leave the rest of the operation to the items after them. -/
theorem Transforms.transform_append (h : Transforms use xs s ys t) {outs : Nat → OutStream}
    (houts : ∀ n, (outs (n + 1)).write = some (outs n)) (fails : Bool) (more : List α) :
    transform use fails (xs ++ more) (outs xs.length) s =
      ⟨ys ++ (transform use fails more (outs 0) t).out,
        (transform use fails more (outs 0) t).ending⟩ := by
  induction h with
  | nil => rfl
  | cons hx _ ih =>
    rw [List.cons_append, List.length_cons, transform_written hx (houts _), ih, List.cons_append]

theorem Transforms.transform_reliable (h : Transforms use xs s ys t) (fails : Bool) (more : List α) :
    transform use fails (xs ++ more) .reliable s =
      ⟨ys ++ (transform use fails more .reliable t).out,
        (transform use fails more .reliable t).ending⟩ :=
  h.transform_append (outs := fun _ => .reliable) (fun _ => rfl) fails more

/-- On streams that do not fail an operation succeeds exactly when each item does. -/
theorem transform_eq_ok_iff :
    transform use false xs .reliable s = ⟨ys, .ok t⟩ ↔ Transforms use xs s ys t := by
  refine ⟨fun h => ?_, fun h => by simpa using h.transform_reliable false []⟩
  induction xs generalizing s ys with
  | nil =>
    simp only [transform_nil, Bool.false_eq_true, if_false, Streamed.mk.injEq, Except.ok.injEq] at h
    obtain ⟨rfl, rfl⟩ := h
    exact .nil s
  | cons x xs ih =>
    cases hx : use x s with
    | error e =>
      rw [transform_failed hx, Streamed.mk.injEq] at h
      cases h.2
    | ok r =>
      obtain ⟨y, s'⟩ := r
      rw [transform_written hx OutStream.write_reliable, Streamed.mk.injEq] at h
      obtain ⟨rfl, hending⟩ := h
      exact .cons hx (ih (by rw [← hending]))

/-- A successful operation splits after any number of items. -/
theorem Transforms.split (h : Transforms use xs s ys t) (w : Nat) :
    ∃ u, Transforms use (xs.take w) s (ys.take w) u ∧ Transforms use (xs.drop w) u (ys.drop w) t := by
  induction h generalizing w with
  | nil s => exact ⟨s, by simpa using .nil s, by simpa using .nil s⟩
  | @cons x xs s s' y ys t hx hxs ih =>
    cases w with
    | zero => exact ⟨s, .nil s, .cons hx hxs⟩
    | succ w =>
      obtain ⟨u, htake, hdrop⟩ := ih w
      exact ⟨u, .cons hx htake, hdrop⟩

/-! ### Streams that fail -/

/-- An input that fails at its end leaves all that was emitted (R245(d)). -/
theorem Transforms.transform_fails (h : Transforms use xs s ys t) :
    transform use true xs .reliable s = ⟨ys, .error .ioFailure⟩ := by
  simpa using h.transform_reliable true []

/-- An item that fails leaves what was emitted before it, whatever comes after it (R245(e); log 13). -/
theorem Transforms.transform_item_fails (h : Transforms use xs s ys t) {x : α} {e : HostFailure}
    (hx : use x t = .error e) (fails : Bool) (more : List α) :
    transform use fails (xs ++ x :: more) .reliable s = ⟨ys, .error e⟩ := by
  rw [h.transform_reliable, transform_failed hx, List.append_nil]

/-- An output that takes enough writes is as good as one that never fails (R245(d); log 17). -/
theorem Transforms.transform_enough_writes (h : Transforms use xs s ys t) {w : Nat}
    (hw : xs.length ≤ w) : transform use false xs ⟨some w⟩ s = ⟨ys, .ok t⟩ := by
  have hall := h.transform_append (outs := fun n => ⟨some (w - xs.length + n)⟩) (fun _ => rfl) false []
  simpa [Nat.sub_add_cancel hw] using hall

/-- An output that takes fewer writes keeps those (R245(d); log 17). -/
theorem Transforms.transform_few_writes (h : Transforms use xs s ys t) {w : Nat}
    (hw : w < xs.length) : transform use false xs ⟨some w⟩ s = ⟨ys.take w, .error .ioFailure⟩ := by
  obtain ⟨u, htake, hdrop⟩ := h.split w
  have hwy : w < ys.length := h.length_eq ▸ hw
  rw [List.drop_eq_getElem_cons hw, List.drop_eq_getElem_cons hwy] at hdrop
  obtain _ | ⟨hx, -⟩ := hdrop
  have hfirst := htake.transform_append (outs := fun n => ⟨some n⟩) (fun _ => rfl) false
    (xs[w] :: xs.drop (w + 1))
  rw [transform_unwritten hx rfl, ← List.drop_eq_getElem_cons hw, List.take_append_drop,
    List.length_take_of_le hw.le, List.append_nil] at hfirst
  exact hfirst

theorem Transforms.transform_writes (h : Transforms use xs s ys t) (w : Nat) :
    transform use false xs ⟨some w⟩ s =
      if ys.length ≤ w then ⟨ys, .ok t⟩ else ⟨ys.take w, .error .ioFailure⟩ := by
  rw [h.length_eq]
  split
  next hw => exact h.transform_enough_writes hw
  next hw => exact h.transform_few_writes (Nat.lt_of_not_le hw)

/-! ### The two stream operations and the key files -/

variable {turns n d pq : Nat} {bytes : List Byte} {lines : List (List Char)}

theorem decryptStream_loaded (h : loadExponent turns d pq s = .ok u) (input : InStream (List Char))
    (out : OutStream) :
    decryptStream turns input d pq out s =
      ⟨(transform (decryptLine turns (decryptBlockLength pq)) input.fails input.items out u).out.flatten,
        (transform (decryptLine turns (decryptBlockLength pq)) input.fails input.items out u).ending⟩ := by
  simp [decryptStream, h]

/-- When decryption succeeds: the key is loaded and each line is decrypted. -/
theorem decryptStream_eq_ok_iff :
    decryptStream turns (.ofList lines) d pq .reliable s = ⟨bytes, .ok t⟩ ↔
      ∃ u blocks, loadExponent turns d pq s = .ok u ∧
        Transforms (decryptLine turns (decryptBlockLength pq)) lines u blocks t ∧
        bytes = blocks.flatten := by
  constructor
  · intro h
    cases hload : loadExponent turns d pq s with
    | error e => simp [decryptStream, hload] at h
    | ok u =>
      rw [decryptStream_loaded hload, Streamed.mk.injEq] at h
      obtain ⟨rfl, hending⟩ := h
      exact ⟨u, _, rfl, transform_eq_ok_iff.1 (by rw [← hending]; rfl), rfl⟩
  · rintro ⟨u, blocks, hload, hblocks, rfl⟩
    rw [decryptStream_loaded hload, InStream.items_ofList, InStream.fails_ofList,
      transform_eq_ok_iff.2 hblocks]

theorem encryptStream_loaded (hk : 2 ≤ encryptBlockLength n) (h : loadExponent turns n n s = .ok u)
    (input : InStream Byte) (out : OutStream) :
    encryptStream turns input n out s =
      transform (encryptPayload turns) input.fails (readPayloads (encryptBlockLength n - 1) input)
        out u := by
  simp [encryptStream, h, Nat.not_lt.2 hk]

/-- When encryption succeeds: a block has room for a byte, the modulus is loaded and each payload is
encrypted. -/
theorem encryptStream_eq_ok_iff :
    encryptStream turns (.ofList bytes) n .reliable s = ⟨lines, .ok t⟩ ↔
      2 ≤ encryptBlockLength n ∧ ∃ u, loadExponent turns n n s = .ok u ∧
        Transforms (encryptPayload turns)
          (payloads (encryptBlockLength n - 1) (bytes.length + 1) bytes) u lines t := by
  constructor
  · intro h
    by_cases hk : encryptBlockLength n < 2
    · simp [encryptStream, hk] at h
    · refine ⟨Nat.le_of_not_lt hk, ?_⟩
      cases hload : loadExponent turns n n s with
      | error e => simp [encryptStream, hk, hload] at h
      | ok u =>
        rw [encryptStream_loaded (Nat.le_of_not_lt hk) hload] at h
        exact ⟨u, rfl, transform_eq_ok_iff.1 h⟩
  · rintro ⟨hk, u, hload, hpayloads⟩
    rw [encryptStream_loaded hk hload]
    exact transform_eq_ok_iff.2 hpayloads

theorem transforms_keyFileLines (lines : List (List Char)) (s : State) :
    Transforms (fun line s => .ok (line, s)) lines s lines s := by
  induction lines with
  | nil => exact .nil s
  | cons line lines ih => exact .cons rfl ih

/-- Settles O48: each operation is `transform` on the items of its input, and a success splits where the
failure falls. -/
theorem streamFailuresKeepWhatWasEmitted : Obligations.StreamFailuresKeepWhatWasEmitted := by
  refine ⟨fun turns d pq s lines bytes s₁ h => ?_, fun turns d pq s lines bytes s₁ w h => ?_,
    fun turns n s bytes lines s₁ h => ?_, fun lines s w => ?_, fun lines => ⟨rfl, rfl⟩⟩
  · obtain ⟨u, blocks, hload, hblocks, rfl⟩ := decryptStream_eq_ok_iff.1 h
    refine ⟨?_, fun line more fails hline => ?_⟩
    · rw [decryptStream_loaded hload, hblocks.transform_fails]
    · rw [decryptStream_loaded hload, hblocks.transform_item_fails hline]
  · obtain ⟨u, blocks, hload, hblocks, rfl⟩ := decryptStream_eq_ok_iff.1 h
    refine ⟨fun hw => ?_, fun hw => ?_⟩
    · rw [decryptStream_loaded hload, InStream.items_ofList, InStream.fails_ofList,
        hblocks.transform_enough_writes hw]
    · obtain ⟨s₂, hhead, -⟩ := hblocks.split w
      refine ⟨(blocks.take w).flatten, s₂, ?_,
        decryptStream_eq_ok_iff.2 ⟨u, _, hload, hhead, rfl⟩, ?_⟩
      · exact ⟨(blocks.drop w).flatten, by rw [← List.flatten_append, List.take_append_drop]⟩
      · rw [decryptStream_loaded hload, InStream.items_ofList, InStream.fails_ofList,
          hblocks.transform_few_writes hw]
  · obtain ⟨hk, u, hload, hlines⟩ := encryptStream_eq_ok_iff.1 h
    refine ⟨?_, fun w => ?_⟩
    · obtain ⟨v, hread, -⟩ := hlines.split (lines.length - 1)
      rw [encryptStream_loaded hk hload, List.dropLast_eq_take]
      refine Eq.trans ?_ hread.transform_fails
      rw [hlines.length_eq, ← List.dropLast_eq_take]
      rfl
    · rw [encryptStream_loaded hk hload]
      exact hlines.transform_writes w
  · have hlines := transforms_keyFileLines lines s
    exact ⟨transform_eq_ok_iff.2 hlines, hlines.transform_writes w⟩

end Sys2Proof.Machine
end

section
/-! The arithmetic of the cipher: the exponents p²·q and d undo each other modulo pq (R215 to R217, R222,
R223). -/

namespace Sys2Proof.Machine

variable {p q d m e : Nat}

/-- Fermat: modulo a prime, exponents that differ by a multiple of p − 1 from 1 change nothing. -/
theorem pow_modEq_self_of_prime (hp : Nat.Prime p) (he : 1 ≤ e) (hdvd : p - 1 ∣ e - 1) (m : Nat) :
    m ^ e ≡ m [MOD p] := by
  by_cases hm : p ∣ m
  · have hpow : p ∣ m ^ e := dvd_pow hm (by omega)
    exact ((Nat.modEq_zero_iff_dvd).2 hpow).trans ((Nat.modEq_zero_iff_dvd).2 hm).symm
  · obtain ⟨k, hk⟩ := hdvd
    have hcop : Nat.Coprime m p := ((Nat.Prime.coprime_iff_not_dvd hp).2 hm).symm
    have hfermat : m ^ (p - 1) ≡ 1 [MOD p] := Nat.totient_prime hp ▸ Nat.ModEq.pow_totient hcop
    calc m ^ e = m * (m ^ (p - 1)) ^ k := by rw [← pow_mul, ← hk, ← pow_succ']; congr 1; omega
      _ ≡ m * 1 ^ k [MOD p] := (hfermat.pow k).mul_left m
      _ = m := by rw [one_pow, mul_one]

/-- The same modulo the product of two primes, with λ = lcm(p − 1, q − 1) (R216). -/
theorem pow_modEq_self_of_primes (hp : Nat.Prime p) (hq : Nat.Prime q) (hpq : p ≠ q) (he : 1 ≤ e)
    (hdvd : Nat.lcm (p - 1) (q - 1) ∣ e - 1) (m : Nat) : m ^ e ≡ m [MOD p * q] :=
  (Nat.modEq_and_modEq_iff_modEq_mul ((Nat.coprime_primes hp hq).2 hpq)).1
    ⟨pow_modEq_self_of_prime hp he ((Nat.dvd_lcm_left _ _).trans hdvd) m,
      pow_modEq_self_of_prime hq he ((Nat.dvd_lcm_right _ _).trans hdvd) m⟩

/-- The primes p ≠ q are factors of a key, and d is its decryption exponent: an inverse of n = p²·q modulo
lcm(p − 1, q − 1) (R215, R216). -/
structure IsKey (p q d : Nat) : Prop where
  prime_p : Nat.Prime p
  prime_q : Nat.Prime q
  ne      : p ≠ q
  inverse : (Nat.lcm (p - 1) (q - 1) : Int) ∣ ((p * p * q : Nat) : Int) * d - 1

theorem lcm_pred_ne_one (hpq : p ≠ q) : Nat.lcm (p - 1) (q - 1) ≠ 1 := by
  intro h
  have hp1 : p - 1 = 1 := Nat.dvd_one.1 ((Nat.dvd_lcm_left _ _).trans h.dvd)
  have hq1 : q - 1 = 1 := Nat.dvd_one.1 ((Nat.dvd_lcm_right _ _).trans h.dvd)
  omega

theorem IsKey.two_le_modulus (h : IsKey p q d) : 2 ≤ p * q :=
  h.prime_p.two_le.trans (Nat.le_mul_of_pos_right p h.prime_q.pos)

theorem IsKey.two_le_n (h : IsKey p q d) : 2 ≤ p * p * q := by
  rw [mul_assoc]
  exact h.two_le_modulus.trans (Nat.le_mul_of_pos_left _ h.prime_p.pos)

theorem IsKey.d_ne_zero (h : IsKey p q d) : d ≠ 0 := by
  rintro rfl
  refine lcm_pred_ne_one h.ne (Nat.dvd_one.1 ?_)
  have hinv := h.inverse
  rw [Nat.cast_zero, mul_zero, zero_sub, dvd_neg] at hinv
  exact_mod_cast hinv

/-- The two exponents together change nothing modulo pq. -/
theorem IsKey.pow_modEq_self (h : IsKey p q d) (m : Nat) : m ^ (p * p * q * d) ≡ m [MOD p * q] := by
  have he : 1 ≤ p * p * q * d :=
    Nat.mul_pos (Nat.zero_lt_of_lt h.two_le_n) (Nat.pos_of_ne_zero h.d_ne_zero)
  refine pow_modEq_self_of_primes h.prime_p h.prime_q h.ne he (Int.natCast_dvd_natCast.1 ?_) m
  rw [Nat.cast_sub he, Nat.cast_mul, Nat.cast_one]
  exact h.inverse

theorem powmodResult_of_ne_zero (hd : d ≠ 0) (a n : Nat) : powmodResult a d n = a ^ d % n := if_neg hd

/-- A block below pq, encrypted and decrypted, is the block again (R222, R223). -/
theorem IsKey.decrypt_encrypt (h : IsKey p q d) (hm : m < p * q) :
    powmodResult (powmodResult m (p * p * q) (p * p * q)) d (p * q) = m := by
  have hn : p * p * q ≠ 0 := by have := h.two_le_n; omega
  have hdvd : p * q ∣ p * p * q := ⟨p, by ring⟩
  have hmod : (m ^ (p * p * q) % (p * p * q)) ^ d ≡ m [MOD p * q] := calc
    _ ≡ (m ^ (p * p * q)) ^ d [MOD p * q] := ((Nat.mod_modEq _ _).of_dvd hdvd).pow d
    _ = m ^ (p * p * q * d) := (pow_mul _ _ _).symm
    _ ≡ m [MOD p * q] := h.pow_modEq_self m
  rw [powmodResult_of_ne_zero h.d_ne_zero, powmodResult_of_ne_zero hn, hmod, Nat.mod_eq_of_lt hm]

theorem IsKey.encrypt_lt (h : IsKey p q d) (m : Nat) :
    powmodResult m (p * p * q) (p * p * q) < p * p * q := by
  have hn := h.two_le_n
  rw [powmodResult_of_ne_zero (by omega)]
  exact Nat.mod_lt _ (by omega)

end Sys2Proof.Machine
end

section
/-! Uses of the engine with enough turns, and the cipher through the engine (R215 to R231). -/

namespace Sys2Proof.Machine

open Filter (atTop eventually_atTop)

variable {s t : State} {d n : Nat}

/-! ### Enough turns -/

/-- More turns than enough change nothing. -/
theorem drain_mono {turns turns' : Nat} (h : drain turns s = .ok t) (hle : turns ≤ turns') :
    drain turns' s = .ok t := by
  induction turns generalizing s turns' with
  | zero =>
    have hs : s.schedule.isEmpty = true := by
      by_contra hs
      simp [drain, hs] at h
    cases turns' <;> simpa [drain, hs] using h
  | succ turns ih =>
    obtain _ | turns' := turns'
    · omega
    · rw [drain] at h ⊢
      split at h
      next hs => rwa [if_pos hs]
      next hs =>
        rw [if_neg hs]
        cases hstep : step s with
        | next s' => rw [hstep] at h; exact ih h (Nat.le_of_succ_le_succ hle)
        | fault r => rw [hstep] at h; cases h
        | refused r => rw [hstep] at h; cases h

theorem callEngine_mono {turns turns' : Nat} {script : List ScriptLine} {r : (Bool × Nat) × State}
    (h : callEngine turns script s = .ok r) (hle : turns ≤ turns') :
    callEngine turns' script s = .ok r := by
  cases hp : perform turns (script.map scriptEvent) s with
  | error e => simp [callEngine, hp] at h
  | ok s' =>
    have hp' : perform turns' (script.map scriptEvent) s = .ok s' := drain_mono hp hle
    simpa only [callEngine, hp, hp'] using h

/-- A use of the engine that some number of turns is enough for succeeds with every larger number. -/
theorem eventually_callEngine {turns : Nat} {script : List ScriptLine} {r : (Bool × Nat) × State}
    (h : callEngine turns script s = .ok r) : ∀ᶠ turns in atTop, callEngine turns script s = .ok r :=
  eventually_atTop.2 ⟨turns, fun _ hle => callEngine_mono h hle⟩

/-! ### One block -/

theorem accepting_of_done (h : s.state = .done) : accepting s = true := accepting_iff.2 (.inr h)

/-- The key for decryption is made when n has an inverse modulo λ = lcm(p − 1, q − 1) (R215 to R217). -/
theorem eventually_makePrivateKey {p q : Nat} (ha : accepting s = true) (hp : Nat.Prime p)
    (hq : Nat.Prime q) (hpq : p ≠ q) (hgcd : Nat.gcd (p * p * q) (Nat.lcm (p - 1) (q - 1)) = 1) :
    ∃ d t, IsKey p q d ∧ accepting t = true ∧
      ∀ᶠ turns in atTop, makePrivateKey turns p q s = .ok ((d, p * q), t) := by
  obtain ⟨turns₁, s₁, hgcdCall, hdone₁, -⟩ := callEngine_gcd ha (p - 1) (q - 1)
  have hlambda : Nat.lcm (p - 1) (q - 1) ≠ 0 :=
    Nat.lcm_ne_zero (Nat.sub_ne_zero_of_lt hp.one_lt) (Nat.sub_ne_zero_of_lt hq.one_lt)
  obtain ⟨turns₂, _, d, s₂, hinvCall, ⟨-, rfl, -, hdvd⟩ | ⟨hnone, -⟩, hdone₂⟩ :=
    callEngine_modinv (accepting_of_done hdone₁) (p * p * q) hlambda
  · refine ⟨d, s₂, ⟨hp, hq, hpq, hdvd⟩, accepting_of_done hdone₂, ?_⟩
    filter_upwards [eventually_callEngine hgcdCall, eventually_callEngine hinvCall]
      with turns hgcdCall hinvCall
    rw [Nat.lcm] at hinvCall
    simp [makePrivateKey, hgcdCall, hinvCall]
  · exact absurd hgcd hnone

theorem eventually_powmod (ha : accepting s = true) (a d : Nat) (hn : n ≠ 0) :
    ∃ t, accepting t = true ∧
      ∀ᶠ turns in atTop,
        callEngine turns (powmodScript a d n) s = .ok ((false, powmodResult a d n), t) := by
  obtain ⟨turns, t, hcall, hdone⟩ := callEngine_powmod ha a d hn
  exact ⟨t, accepting_of_done hdone, eventually_callEngine hcall⟩

/-- Settles O43: the key is made by GCD and MODINV, and the two powers undo each other modulo pq. -/
theorem encryptedBlockDecryptsToItself : Obligations.EncryptedBlockDecryptsToItself := by
  intro s p q m ha hp hq hpq hgcd hm
  obtain ⟨d, s₁, hkey, ha₁, hmake⟩ := eventually_makePrivateKey ha hp hq hpq hgcd
  obtain ⟨s₂, ha₂, hencrypt⟩ :=
    eventually_powmod ha₁ m (p * p * q) (Nat.ne_zero_of_lt hkey.two_le_n)
  obtain ⟨s₃, -, hdecrypt⟩ := eventually_powmod ha₂ (powmodResult m (p * p * q) (p * p * q)) d
    (Nat.ne_zero_of_lt hkey.two_le_modulus)
  obtain ⟨turns, hmake, hencrypt, hdecrypt⟩ := (hmake.and (hencrypt.and hdecrypt)).exists
  rw [hkey.decrypt_encrypt hm] at hdecrypt
  refine ⟨turns, d, s₁, powmodResult m (p * p * q) (p * p * q), s₂, s₃, hmake, ?_, ?_⟩
  · simp [encryptBlock, hencrypt]
  · simp [decryptBlock, hdecrypt]

/-! ### Whole streams -/

/-- The engine accepts commands, with exponent and modulus standing in OPB and OPN (R22, R231). -/
structure Loaded (d n : Nat) (s : State) : Prop where
  accepts : accepting s = true
  opb     : s.opb = d
  opn     : s.opn = n

theorem eventually_loadExponent (ha : accepting s = true) (d n : Nat) :
    ∃ t, Loaded d n t ∧ ∀ᶠ turns in atTop, loadExponent turns d n s = .ok t := by
  let t := { s with schedule := [], opb := d, opn := n }
  obtain ⟨turns, h⟩ : Drains { s with schedule := [.write 3#3 d, .write 4#3 n] } t :=
    .of_writeOpb rfl ha (.of_writeOpn rfl ha (.of_nil rfl))
  exact ⟨t, ⟨ha, rfl, rfl⟩, eventually_atTop.2 ⟨turns, fun _ hle => drain_mono h hle⟩⟩

/-- One block on a loaded engine: exponent and modulus stand for the next one (R231). -/
theorem Loaded.eventually_powerOfBlock (h : Loaded d n s) (hn : n ≠ 0) (m : Nat) :
    ∃ t, Loaded d n t ∧
      ∀ᶠ turns in atTop, powerOfBlock turns m s = .ok (powmodResult m d n, t) := by
  obtain ⟨ha, rfl, rfl⟩ := h
  obtain ⟨turns, _, _, t, hcall, ⟨rfl, rfl⟩, hdone, -, hopb, hopn⟩ :=
    callEngine_command (script := [.wr .opa m, .cmd .powmod, .wait, .rd .res]) (i := .powmod)
      (withStatus := false) (fun _ h => .of_writeOpa rfl ha h) rfl ha (fun _ => hn)
  refine ⟨t, ⟨accepting_of_done hdone, hopb, hopn⟩, ?_⟩
  filter_upwards [eventually_callEngine hcall] with turns hcall
  simp [powerOfBlock, hcall]

/-- The line of ciphertext of a payload (R222, R226). -/
def encryptedLine (n : Nat) (bytes : List Byte) : List Char :=
  toHex (powmodResult (blockToInteger bytes) n n)

theorem Loaded.eventually_encryptPayload (h : Loaded n n s) (hn : n ≠ 0) (bytes : List Byte) :
    ∃ t, Loaded n n t ∧
      ∀ᶠ turns in atTop, encryptPayload turns bytes s = .ok (encryptedLine n bytes, t) := by
  obtain ⟨t, ht, hpower⟩ := h.eventually_powerOfBlock hn (blockToInteger bytes)
  refine ⟨t, ht, ?_⟩
  filter_upwards [hpower] with turns hpower
  simp [encryptPayload, encryptedLine, hpower]

/-- The line of a payload that leaves room for the sentinel decrypts to the payload (R228). -/
theorem Loaded.eventually_decryptLine {p q : Nat} (h : Loaded d (p * q) s) (hkey : IsKey p q d)
    {bytes : List Byte} (hlen : bytes.length < encryptBlockLength (p * p * q)) :
    ∃ t, Loaded d (p * q) t ∧
      ∀ᶠ turns in atTop, decryptLine turns (decryptBlockLength (p * q))
        (encryptedLine (p * p * q) bytes) s = .ok (bytes, t) := by
  have hfits := ciphertextSizeFits_of_lt hkey.prime_q.pos (hkey.encrypt_lt (blockToInteger bytes))
  have hblock := blockToInteger_lt_mul hkey.prime_q.pos (Nat.ne_zero_of_lt hkey.two_le_n) hlen
  obtain ⟨t, ht, hpower⟩ := h.eventually_powerOfBlock (Nat.ne_zero_of_lt hkey.two_le_modulus)
    (powmodResult (blockToInteger bytes) (p * p * q) (p * p * q))
  rw [hkey.decrypt_encrypt hblock] at hpower
  refine ⟨t, ht, ?_⟩
  filter_upwards [hpower] with turns hpower
  simp [decryptLine, encryptedLine, hfits, hpower, blockMappingIsReversible bytes]

/-- An operation whose every item succeeds with enough turns, and keeps what the next one needs, succeeds
with enough turns for all of them. -/
theorem eventually_transforms {ι α β : Type} {use : Nat → α → State → Except HostFailure (β × State)}
    {Ready : State → Prop} {item : ι → α} {result : ι → β} {xs : List ι}
    (huse : ∀ x ∈ xs, ∀ s, Ready s →
      ∃ t, Ready t ∧ ∀ᶠ turns in atTop, use turns (item x) s = .ok (result x, t))
    (hs : Ready s) :
    ∃ t, Ready t ∧
      ∀ᶠ turns in atTop, Transforms (use turns) (xs.map item) s (xs.map result) t := by
  induction xs generalizing s with
  | nil => exact ⟨s, hs, .of_forall fun _ => .nil s⟩
  | cons x xs ih =>
    obtain ⟨s', hs', hx⟩ := huse x List.mem_cons_self s hs
    obtain ⟨t, ht, hxs⟩ := ih (fun y hy => huse y (List.mem_cons_of_mem x hy)) hs'
    refine ⟨t, ht, ?_⟩
    filter_upwards [hx, hxs] with turns hx hxs
    exact .cons hx hxs

theorem eventually_encryptStream (ha : accepting s = true) (hn : n ≠ 0)
    (hk : 2 ≤ encryptBlockLength n) (bytes : List Byte) :
    ∃ t, accepting t = true ∧ ∀ᶠ turns in atTop, encryptStream turns (.ofList bytes) n .reliable s =
      ⟨(payloads (encryptBlockLength n - 1) (bytes.length + 1) bytes).map (encryptedLine n), .ok t⟩ := by
  obtain ⟨u, hu, hload⟩ := eventually_loadExponent ha n n
  obtain ⟨t, ht, hlines⟩ := eventually_transforms (use := encryptPayload) (item := id)
    (result := encryptedLine n) (xs := payloads (encryptBlockLength n - 1) (bytes.length + 1) bytes)
    (fun payload _ _ hs => hs.eventually_encryptPayload hn payload) hu
  refine ⟨t, ht.accepts, ?_⟩
  filter_upwards [hload, hlines] with turns hload hlines
  rw [List.map_id] at hlines
  exact encryptStream_eq_ok_iff.2 ⟨hk, u, hload, hlines⟩

theorem eventually_decryptStream {p q : Nat} (ha : accepting s = true) (hkey : IsKey p q d)
    {blocks : List (List Byte)} (hlen : ∀ x ∈ blocks, x.length < encryptBlockLength (p * p * q)) :
    ∃ t, ∀ᶠ turns in atTop,
      decryptStream turns (.ofList (blocks.map (encryptedLine (p * p * q)))) d (p * q) .reliable s =
        ⟨blocks.flatten, .ok t⟩ := by
  obtain ⟨u, hu, hload⟩ := eventually_loadExponent ha d (p * q)
  obtain ⟨t, -, hblocks⟩ := eventually_transforms
    (use := fun turns => decryptLine turns (decryptBlockLength (p * q)))
    (item := encryptedLine (p * p * q)) (result := id) (xs := blocks)
    (fun x hx _ hs => hs.eventually_decryptLine hkey (hlen x hx)) hu
  refine ⟨t, ?_⟩
  filter_upwards [hload, hblocks] with turns hload hblocks
  rw [List.map_id] at hblocks
  exact decryptStream_eq_ok_iff.2 ⟨u, blocks, hload, hblocks, rfl⟩

/-- Settles O46: each payload leaves room for the sentinel, so its line decrypts to it, and the payloads are
the plaintext. -/
theorem encryptedStreamDecryptsToItself : Obligations.EncryptedStreamDecryptsToItself := by
  intro s p q d bytes ha hp hq hpq hinv hk
  have hkey : IsKey p q d := ⟨hp, hq, hpq, hinv⟩
  obtain ⟨full, last, hpay, hflat, hfull, hlast, hcount⟩ :=
    payloadsAreFullButTheLastAndLoseNothing (encryptBlockLength (p * p * q) - 1) bytes (by omega)
  have hlen : ∀ x ∈ full ++ [last], x.length < encryptBlockLength (p * p * q) := by
    intro x hx
    obtain hx | rfl : x ∈ full ∨ x = last := by simpa using hx
    · rw [hfull x hx]; omega
    · omega
  obtain ⟨s₁, ha₁, hencrypt⟩ :=
    eventually_encryptStream ha (Nat.ne_zero_of_lt hkey.two_le_n) hk bytes
  obtain ⟨s₂, hdecrypt⟩ := eventually_decryptStream ha₁ hkey hlen
  obtain ⟨turns, hencrypt, hdecrypt⟩ := (hencrypt.and hdecrypt).exists
  rw [hpay] at hencrypt
  rw [hflat] at hdecrypt
  exact ⟨turns, _, s₁, s₂, hencrypt, by simp [hcount], hdecrypt⟩

end Sys2Proof.Machine
end

section
/-! Faults: how FAULT is entered, that a zero modulus faults MODINV and POWMOD only, and that nothing but Reset
leads out of FAULT (R302, R304, R305). -/

namespace Sys2Proof.Machine

variable {s t u : State}

/-! ### Entering FAULT -/

/-- Settles O13, by the cases of the step: a start enters BUSY, Reset enters IDLE, a micro-step stays in BUSY or
enters DONE, and no other step but a faulting word changes STATE. -/
theorem faultIsEnteredOnlyByAFaultingIssue : Obligations.FaultIsEnteredOnlyByAFaultingIssue := by
  intro s t h hne hf
  have hdrop : ∀ addr v more, step { t with schedule := .write addr v :: more } =
      .next { t with schedule := more, herr := true } :=
    fun _ _ _ => step_of_dropped rfl (.inr (.inl hf))
  cases step_case h with
  | illegal w rest hs ha hw ht =>
    subst t
    exact ⟨w, rest, hs, accepting_iff.1 ha, .inl ⟨hw, rfl⟩, rfl, hdrop⟩
  | modZero i rest hs ha hi hn ht =>
    subst t
    exact ⟨_, rest, hs, accepting_iff.1 ha, .inr ⟨(encodeWord_mem_modulus_iff i).2 hi, hn, rfl⟩, rfl,
      hdrop⟩
  | micro _ _ hb hm =>
    rcases (microStep_frame hm).2 with ⟨hstate, -, -⟩ | hdone
    · exact absurd (hstate.symm.trans hf) hne
    · simp [hdone] at hf
  | started _ _ _ _ _ ht | reset _ _ ht => simp [ht] at hf
  | stillTurn _ _ _ ht | dropped _ _ _ _ _ ht | wroteOpa _ _ _ _ ht | wroteOpb _ _ _ _ ht
  | wroteOpn _ _ _ _ ht | read _ _ _ ht | wait _ _ ht | draw _ _ _ _ ht =>
    subst t
    exact absurd hf hne

/-! ### The zero modulus -/

/-- A command whose operand check passes goes to BUSY and raises no fault (R85). -/
theorem exec_enters_busy (ha : accepting s = true) {i : Instr}
    (hn : i = .modinv ∨ i = .powmod → s.opn ≠ 0) :
    ∃ t, exec i s = .next t ∧ t.state = .busy ∧ t.cause = s.cause :=
  ⟨_, exec_started ha hn, acceptCommand_state i _, acceptCommand_cause i _⟩

/-- Settles O32: the operand check is MODINV's and POWMOD's alone. -/
theorem zeroModulusFaultsModinvAndPowmodOnly : Obligations.ZeroModulusFaultsModinvAndPowmodOnly :=
  fun _ ha hn => ⟨exec_zeroModulus ha (.inl rfl) hn, exec_zeroModulus ha (.inr rfl) hn,
    exec_enters_busy ha (by simp), exec_enters_busy ha (by simp)⟩

/-! ### Staying in FAULT -/

/-- What no step in FAULT but Reset changes: everything of the engine's except HERR, which stays set once it
is (R305). -/
structure SameEngine (s t : State) : Prop where
  state  : t.state = s.state
  cause  : t.cause = s.cause
  opa    : t.opa = s.opa
  opb    : t.opb = s.opb
  opn    : t.opn = s.opn
  res    : t.res = s.res
  lastop : t.lastop = s.lastop
  noinv  : t.noinv = s.noinv
  phase  : t.phase = s.phase
  work   : t.work = s.work
  herr   : s.herr = true → t.herr = true

theorem SameEngine.trans (h : SameEngine s t) (g : SameEngine t u) : SameEngine s u :=
  ⟨g.state.trans h.state, g.cause.trans h.cause, g.opa.trans h.opa, g.opb.trans h.opb,
   g.opn.trans h.opn, g.res.trans h.res, g.lastop.trans h.lastop, g.noinv.trans h.noinv,
   g.phase.trans h.phase, g.work.trans h.work, g.herr ∘ h.herr⟩

/-- The host's side of the state is not the engine's. -/
theorem SameEngine.environment (s : State) (schedule : List Event) (seen : List Observation)
    (answers requests : List Nat) :
    SameEngine s { s with
      schedule := schedule, seen := seen, answers := answers, requests := requests } :=
  ⟨rfl, rfl, rfl, rfl, rfl, rfl, rfl, rfl, rfl, rfl, id⟩

theorem SameEngine.refl (s : State) : SameEngine s s := .environment s _ _ _ _

/-- A dropped write leaves the engine as it is, HERR apart (R84). -/
theorem SameEngine.dropped (s : State) (schedule : List Event) :
    SameEngine s { s with schedule := schedule, herr := true } :=
  ⟨rfl, rfl, rfl, rfl, rfl, rfl, rfl, rfl, rfl, rfl, fun _ => rfl⟩

/-- The machine is in FAULT, and nothing pending resets it or has no meaning. -/
structure StuckInFault (s : State) : Prop where
  fault      : s.state = .fault
  noReset    : .reset ∉ s.schedule
  wellFormed : scheduleWellFormed s.schedule = true

/-- In FAULT every event but a Reset has a next state, and the engine there is the same (R305). -/
theorem StuckInFault.exists_step (h : StuckInFault s) : ∃ t, step s = .next t ∧ SameEngine s t := by
  have hturn : ∀ rest, engineTurn { s with schedule := rest } = .next { s with schedule := rest } :=
    fun _ => engineTurn_still (by simp [h.fault])
  cases hs : s.schedule with
  | nil => exact ⟨s, (step_of_nil hs).trans (hturn _), .refl s⟩
  | cons e rest =>
    cases e with
    | write addr v => exact ⟨_, step_of_dropped hs (.inr (.inl h.fault)), .dropped s rest⟩
    | read addr => exact ⟨_, step_of_cons hs, .environment s ..⟩
    | reset => exact absurd (by simp [hs]) h.noReset
    | wait => exact ⟨_, step_of_wait hs, .environment s ..⟩
    | hostDraw b =>
      have hb : (Event.hostDraw b).wellFormed = true :=
        scheduleWellFormed_iff.1 h.wellFormed _ (by simp [hs])
      exact ⟨_, step_of_hostDraw hs (Nat.ne_of_gt (of_decide_eq_true hb)), .environment s ..⟩
    | engine => exact ⟨_, (step_of_engine hs).trans (hturn rest), .environment s ..⟩

/-- A step brings no Reset, so that the machine is stuck after it as well. -/
theorem StuckInFault.after_step (h : StuckInFault s) (hstep : step s = .next t) (hsame : SameEngine s t) :
    StuckInFault t where
  fault := hsame.state.trans h.fault
  noReset hmem := (step_schedule_mem hstep hmem).elim h.noReset (by simp)
  wellFormed := step_scheduleWellFormed hstep h.wellFormed

theorem coreRun_succ (h : step s = .next t) (n : Nat) :
    Host.Core.run core (n + 1) s = Host.Core.run core n t := by
  have hcore : core.step s = .next t := h
  simp only [Host.Core.run, hcore]

/-- However many steps the machine takes in FAULT, the engine stays the same. -/
theorem StuckInFault.exists_coreRun (h : StuckInFault s) (n : Nat) :
    ∃ t, Host.Core.run core n s = .next t ∧ SameEngine s t := by
  induction n generalizing s with
  | zero => exact ⟨s, rfl, .refl s⟩
  | succ n ih =>
    obtain ⟨u, hstep, hsu⟩ := h.exists_step
    obtain ⟨t, hrun, hut⟩ := ih (h.after_step hstep hsu)
    exact ⟨t, (coreRun_succ hstep n).trans hrun, hsu.trans hut⟩

/-- Settles O14, by induction on the number of steps: each keeps the engine as it is and brings no Reset. -/
theorem faultIsTerminalUntilReset : Obligations.FaultIsTerminalUntilReset := by
  intro n s hf hreset hwf
  obtain ⟨t, hrun, hsame⟩ := (StuckInFault.mk hf hreset hwf).exists_coreRun n
  exact ⟨t, hrun, hsame.state.trans hf, hsame.cause, hsame.opa, hsame.opb, hsame.opn, hsame.res,
    hsame.lastop, hsame.noinv, hsame.phase, hsame.work, hsame.herr⟩

end Sys2Proof.Machine
end

section
/-! A running command comes to its end when the engine is left to itself, and nothing but Reset leads out of
FAULT, clears HERR or stops a running command (R305, R340, R356). -/

namespace Sys2Proof.Machine

variable {s t : State}

/-! ### Completion -/

/-- Left to itself a running engine completes its command and changes nothing outside it: every turn that goes
on keeps the invariant and makes the variant smaller. -/
theorem State.Inv.exists_completion (h : s.Inv) (hb : s.state = .busy) :
    ∃ n t, engineRun n s = .next t ∧ t.state = .done ∧ SameOutside s t := by
  induction hvar : variant s using WellFoundedLT.induction generalizing s with
  | ind _ ih =>
    obtain ⟨-, hphase⟩ := h.running hb
    obtain ⟨u, hm⟩ := hphase.exists_microCase
    have hturn : engineTurn s = .next u := hm.engineTurn_eq hb
    obtain ⟨hsu, ⟨hstate, -, -⟩ | hdone⟩ := microStep_frame hm.microStep_eq
    · have hbu : u.state = .busy := hstate.trans hb
      have hlt : variant u < variant s := hm.variant_lt hphase (by simp [hbu])
      obtain ⟨n, t, hrun, hd, hut⟩ := ih _ (hvar ▸ hlt) (h.microStep hb hm.microStep_eq) hbu rfl
      exact ⟨n + 1, t, (engineRun_succ hturn n).trans hrun, hd, hsu.trans hut⟩
    · exact ⟨1, u, engineRun_succ hturn 0, hdone, hsu⟩

/-- Settles O40, by induction on the variant of the running command. -/
theorem everyRunningCommandCompletes : Obligations.EveryRunningCommandCompletes := by
  intro s h hb
  obtain ⟨n, t, hrun, hd, hsame⟩ := h.exists_completion hb
  exact ⟨n, t, hrun, hd, hsame.opa, hsame.opb, hsame.opn, hsame.lastop, hsame.herr, hsame.cause,
    hsame.schedule, hsame.seen⟩

/-! ### Only Reset -/

/-- In BUSY and FAULT a step that is no Reset keeps STATE and CAUSE, or is the micro-step that completes the
running command: every write is dropped there (R84). -/
theorem step_state_cause_of_not_accepting (h : step s = .next t) (ha : accepting s = false)
    (hnoreset : ∀ rest, s.schedule ≠ .reset :: rest) :
    (t.state = s.state ∧ t.cause = s.cause) ∨
    s.state = .busy ∧ t.state = .done ∧ (s.schedule = [] ∨ ∃ rest, s.schedule = .engine :: rest) ∧
      microStep { s with schedule := t.schedule } = .next t := by
  cases step_case h with
  | micro rest hturn hb hm =>
    obtain ⟨hsame, ⟨hstate, -, -⟩ | hdone⟩ := microStep_frame hm
    · exact .inl ⟨hstate, hsame.cause⟩
    · have hrest : t.schedule = rest := hsame.schedule
      exact .inr ⟨hb, hdone, hturn.imp And.left fun hs => ⟨rest, hs⟩, by rw [hrest, hm]⟩
  | reset rest hs _ => exact absurd hs (hnoreset rest)
  | wroteOpa _ _ _ hacc _ | wroteOpb _ _ _ hacc _ | wroteOpn _ _ _ hacc _ | illegal _ _ _ hacc _ _
  | modZero _ _ _ hacc _ _ _ | started _ _ _ hacc _ _ => simp [ha] at hacc
  | stillTurn _ _ _ ht | dropped _ _ _ _ _ ht | read _ _ _ ht | wait _ _ ht | draw _ _ _ _ ht =>
    subst t
    exact .inl ⟨rfl, rfl⟩

/-- Settles O6, from what a step does to STATE and CAUSE in BUSY and FAULT, and from who writes HERR. -/
theorem onlyResetLeavesFaultClearsHerrOrStopsACommand :
    Obligations.OnlyResetLeavesFaultClearsHerrOrStopsACommand := by
  intro s t h hnoreset
  have hstep := fun hna => step_state_cause_of_not_accepting h (not_accepting_iff.2 hna) hnoreset
  refine ⟨fun hf => ?_, fun hherr => ?_, fun hb => ?_⟩
  · obtain ⟨hstate, hcause⟩ | ⟨hb, -⟩ := hstep (.inr hf)
    · exact ⟨hstate.trans hf, hcause⟩
    · simp [hf] at hb
  · obtain heq | ⟨_, _, _, -, ht⟩ | ⟨rest, hs, -⟩ := step_herr h
    · exact heq.trans hherr
    · rw [ht]
    · exact absurd hs (hnoreset rest)
  · exact (hstep (.inl hb)).imp (fun ⟨hstate, _⟩ => hstate.trans hb) And.right

end Sys2Proof.Machine
end

section
/-! The bound MAXBITS on a written value, and that no step of the machine is refused
(spec/00_scope.md section 4). -/

namespace Sys2Proof.Machine

/-! ### The bound -/

/-- `x` has more than `B` bits exactly when it is at least 2^B. -/
theorem lt_bitlen_iff (B x : Nat) : B < bitlen x ↔ 2 ^ B ≤ x := by
  by_cases hx : x = 0
  · simp [hx]
  · rw [bitlen, if_neg hx, Nat.lt_succ_iff, Nat.le_log2 hx]

theorem exceedsMaxBits_some_iff (B v : Nat) : exceedsMaxBits (some B) v = true ↔ 2 ^ B ≤ v := by
  rw [exceedsMaxBits, decide_eq_true_iff, lt_bitlen_iff]

theorem portWrite_refused {B v : Nat} (hv : 2 ^ B ≤ v) (addr : PortAddr) (s : State) :
    portWrite (some B) addr v s = .refused .valueExceedsMaxBits :=
  if_pos ((exceedsMaxBits_some_iff B v).2 hv)

/-- A value of at most B bits is written as without a bound. -/
theorem portWrite_some_of_lt {B v : Nat} (hv : v < 2 ^ B) (addr : PortAddr) (s : State) :
    portWrite (some B) addr v s = portWrite none addr v s :=
  if_neg (mt (exceedsMaxBits_some_iff B v).1 hv.not_ge)

/-! ### No step is refused -/

theorem engineTurn_not_refused (s : State) (r : Refusal) : engineTurn s ≠ .refused r := by
  by_cases hb : s.state = .busy
  · rw [engineTurn_busy hb]; exact microStep_not_refused s r
  · rw [engineTurn_still hb]; nofun

/-- A host draw has a next state, or stops the machine with a fault when its range is empty. -/
theorem hostDraw_not_refused (b : Nat) (s : State) (r : Refusal) : hostDraw b s ≠ .refused r := by
  by_cases hb : b = 0
  · rw [hb, hostDraw, randBelow_zero]; nofun
  · rw [hostDraw, randBelow_pos hb]; nofun

/-- No step is refused: the machine's MAXBITS is none, and nothing but a bound on a write refuses. -/
theorem step_not_refused (s : State) (r : Refusal) : step s ≠ .refused r := by
  cases hs : s.schedule with
  | nil => rw [step_of_nil hs]; exact engineTurn_not_refused s r
  | cons e rest =>
    cases e with
    | write addr v =>
      obtain ⟨t, ht⟩ := registerWrite_next (portRegister addr) v { s with schedule := rest }
      rw [step_of_write hs, ht]
      nofun
    | read addr => rw [step_of_cons hs]; nofun
    | reset => rw [step_of_reset hs]; nofun
    | wait => rw [step_of_wait hs]; nofun
    | hostDraw b => rw [step_of_cons hs]; exact hostDraw_not_refused b _ r
    | engine => rw [step_of_engine hs]; exact engineTurn_not_refused _ r

/-- Settles O12, from the length of a value in bits and from what each event can do. -/
theorem maxBitsOnlyRefusesLongerValues : Obligations.MaxBitsOnlyRefusesLongerValues :=
  ⟨fun _ addr _ s => ⟨fun hv => portWrite_refused hv addr s, fun hv => portWrite_some_of_lt hv addr s⟩,
    rfl, step_not_refused⟩

end Sys2Proof.Machine
end
